-- ==== Sys2Proof/Word.lean ====
section
/-! DEFINITION. The two word types of PBD-1. -/

namespace Sys2Proof

/-- A register (00_scope.md R7: REG_W is 32 bits). -/
abbrev Word := BitVec 32

/-- A byte of a RAM or of a channel (00_scope.md R8). -/
abbrev Byte := BitVec 8

end Sys2Proof
end

