-- ==== Sys2Proof/Syntax.lean ====
section
/-! DEFINITION. The instructions of PBD-1: one constructor per row of spec/opcode_table.json, the four command
words first and the four stream elements after them (30_encoding.md R90). -/

namespace Sys2Proof

/-- The source's CompressionMode: Raw = 0, PackBits = 1 (43_dispatcher.md R222). -/
inductive Mode where
  | raw
  | packBits
  deriving DecidableEq, Repr

/-- CMD.SLOT: a 2-bit unsigned slot number (30_encoding.md R91). -/
abbrev Slot := BitVec 2

/-- One constructor per row of the opcode table. -/
inductive Instr where
  /-- FILL #v (40_command_interface.md R145). -/
  | fill (v : Byte)
  /-- UNPACK.RAW s (41_raw_unpacker.md R160). -/
  | unpackRaw (s : Slot)
  /-- UNPACK.PB s (42_packbits.md R180). -/
  | unpackPb (s : Slot)
  /-- DISPATCH s, m (43_dispatcher.md R220). -/
  | dispatch (s : Slot) (m : Mode)
  /-- PB.NOP, control byte 0x80 (42_packbits.md R186). -/
  | pbNop
  /-- PB.LIT, control byte n in 0x00..0x7F; the n + 1 data bytes stand after it in the stream
  (42_packbits.md R187). -/
  | pbLit (n : BitVec 7)
  /-- PB.REP, control byte c in 0x81..0xFF; the value byte stands after it in the stream
  (42_packbits.md R189). -/
  | pbRep (c : Byte)
  /-- RAW.BYTE b (41_raw_unpacker.md R161). -/
  | rawByte (b : Byte)
  deriving DecidableEq, Repr

/-- The two levels of encoding, with the two stream formats of the second (30_encoding.md R90). -/
inductive Format where
  | cmd32
  | pb8
  | raw8
  deriving DecidableEq, Repr

/-- The format of each row (spec/opcode_table.json, "format"). -/
def Instr.format : Instr → Format
  | .fill _ => .cmd32
  | .unpackRaw _ => .cmd32
  | .unpackPb _ => .cmd32
  | .dispatch _ _ => .cmd32
  | .pbNop => .pb8
  | .pbLit _ => .pb8
  | .pbRep _ => .pb8
  | .rawByte _ => .raw8

end Sys2Proof
end

