-- ==== Sys2Proof/WellFormed.lean ====
section
/-! DEFINITION. The instructions the encodings can spell. Every operand type has exactly the encoding's width,
so the one check is on PB.REP's control byte. -/

namespace Sys2Proof

/-- PB.REP's control byte lies in 0x81..0xFF: the bytes below are PB.LIT's and PB.NOP's
(30_encoding.md R94). Every operand of the other rows is legal (R92, R94, R101). -/
def Instr.wellFormed : Instr → Bool
  | .fill _ => true
  | .unpackRaw _ => true
  | .unpackPb _ => true
  | .dispatch _ _ => true
  | .pbNop => true
  | .pbLit _ => true
  | .pbRep c => decide (0x81 ≤ c.toNat)
  | .rawByte _ => true

end Sys2Proof
end

