-- ==== Sys2Proof/Decode.lean ====
section
/-! DEFINITION. Decoding, total on any command word and any stream byte and rejecting by name, and the encoder
written from the same tables (30_encoding.md R92, R94, R101). -/

namespace Sys2Proof

/-- What a decoder is given: a command word, a PackBits control byte or a raw byte. The format is known from
where it stands (30_encoding.md R90), so the bits alone need not say it. -/
inductive Code where
  | cmd32 (w : Word)
  | pb8 (c : Byte)
  | raw8 (b : Byte)
  deriving DecidableEq, Repr

/-- Why a command word is illegal (30_encoding.md R93). -/
inductive Reject where
  /-- OP is 0 or 5..15. -/
  | reservedOp
  /-- A reserved bit, or a field the command does not use, is set. -/
  | fieldNotZero
  deriving DecidableEq, Repr

/-- OP, CMD[3:0] (10_state.md R30). -/
def opField (w : Word) : BitVec 4 := w.extractLsb' 0 4

/-- SLOT, CMD[5:4] (10_state.md R30). -/
def slotField (w : Word) : Slot := w.extractLsb' 4 2

/-- MODE, CMD[6] (10_state.md R30; 0 Raw, 1 PackBits, 43_dispatcher.md R222). -/
def modeField (w : Word) : Mode := if w.getLsbD 6 then .packBits else .raw

/-- FILLV, CMD[15:8] (10_state.md R30). -/
def fillvField (w : Word) : Byte := w.extractLsb' 8 8

/-- A row of an opcode table: w selects it exactly when (w AND mask) = match (30_encoding.md R92). -/
structure Row where
  mask : Word
  pattern : Word
  deriving DecidableEq, Repr

/-- Whether a word selects a row. -/
def Row.selects (r : Row) (w : Word) : Bool := w &&& r.mask == r.pattern

/-- FILL's row. -/
def rowFill : Row := ⟨0xFFFF00FF, 0x00000001⟩

/-- UNPACK.RAW's row. -/
def rowUnpackRaw : Row := ⟨0xFFFFFFCF, 0x00000002⟩

/-- UNPACK.PB's row. -/
def rowUnpackPb : Row := ⟨0xFFFFFFCF, 0x00000003⟩

/-- DISPATCH's row. -/
def rowDispatch : Row := ⟨0xFFFFFF8F, 0x00000004⟩

/-- The command opcode map (30_encoding.md R92). -/
def commandRows : List Row := [rowFill, rowUnpackRaw, rowUnpackPb, rowDispatch]

/-- Command decode (30_encoding.md R92); a word that matches no row is illegal (R93). -/
def decodeCommand (w : Word) : Except Reject Instr :=
  if rowFill.selects w then .ok (.fill (fillvField w))
  else if rowUnpackRaw.selects w then .ok (.unpackRaw (slotField w))
  else if rowUnpackPb.selects w then .ok (.unpackPb (slotField w))
  else if rowDispatch.selects w then .ok (.dispatch (slotField w) (modeField w))
  else if opField w = 0 ∨ 5 ≤ (opField w).toNat then .error .reservedOp
  else .error .fieldNotZero

/-- The three packet classes; they partition the 256 control bytes (30_encoding.md R94, R99). -/
def decodeControl (c : Byte) : Instr :=
  if c = 0x80 then .pbNop
  else if c.toNat < 0x80 then .pbLit (c.extractLsb' 0 7)
  else .pbRep c

/-- Decoding, total on every command word and every stream byte. -/
def decode : Code → Except Reject Instr
  | .cmd32 w => decodeCommand w
  | .pb8 c => .ok (decodeControl c)
  | .raw8 b => .ok (.rawByte b)

/-- DISPATCH's MODE bit (30_encoding.md R91). -/
def modeBit : Mode → BitVec 1
  | .raw => 0
  | .packBits => 1

/-- The word of FILL v: 0x00000001 | (v << 8) (30_encoding.md R92). -/
def fillWord (v : Byte) : Word := 0#16 ++ v ++ 0x01#8

/-- The word of UNPACK.RAW s: 0x02 | (s << 4) (30_encoding.md R92). -/
def unpackRawWord (s : Slot) : Word := 0#26 ++ s ++ 2#4

/-- The word of UNPACK.PB s: 0x03 | (s << 4) (30_encoding.md R92). -/
def unpackPbWord (s : Slot) : Word := 0#26 ++ s ++ 3#4

/-- The word of DISPATCH s, m: 0x04 | (s << 4) | (m << 6) (30_encoding.md R92). -/
def dispatchWord (s : Slot) (m : Mode) : Word := 0#25 ++ modeBit m ++ s ++ 4#4

/-- The control byte of PB.LIT n: 0nnnnnnn (30_encoding.md R94). -/
def litControl (n : BitVec 7) : Byte := 0#1 ++ n

/-- The encoder, row by row of the same tables. -/
def encode : Instr → Code
  | .fill v => .cmd32 (fillWord v)
  | .unpackRaw s => .cmd32 (unpackRawWord s)
  | .unpackPb s => .cmd32 (unpackPbWord s)
  | .dispatch s m => .cmd32 (dispatchWord s m)
  | .pbNop => .pb8 0x80
  | .pbLit n => .pb8 (litControl n)
  | .pbRep c => .pb8 c
  | .rawByte b => .raw8 b

/-- A literal run's byte count: n + 1, from 1 to 128 (30_encoding.md R95). -/
def literalCount (n : BitVec 7) : Nat := n.toNat + 1

/-- A repeat run's byte count: 257 - c in natural numbers, from 2 to 128 (30_encoding.md R96). -/
def repeatCount (c : Byte) : Nat := 257 - c.toNat

/-- How many bytes of the stream an element takes: 1, n + 2 or 2 for a packet, 1 for a raw byte
(30_encoding.md R98, R101); a command word is no stream element. -/
def Instr.streamLength : Instr → Nat
  | .fill _ => 0
  | .unpackRaw _ => 0
  | .unpackPb _ => 0
  | .dispatch _ _ => 0
  | .pbNop => 1
  | .pbLit n => literalCount n + 1
  | .pbRep _ => 2
  | .rawByte _ => 1

/-- How many output bytes an element writes: 0, n + 1, 257 - c or 1 (30_encoding.md R98, R101). -/
def Instr.outputCount : Instr → Nat
  | .fill _ => 0
  | .unpackRaw _ => 0
  | .unpackPb _ => 0
  | .dispatch _ _ => 0
  | .pbNop => 0
  | .pbLit n => literalCount n
  | .pbRep c => repeatCount c
  | .rawByte _ => 1

/-- The longest stream element in bytes: PB.LIT with n = 127 (30_encoding.md R98). -/
def longestElement : Nat := 129

/-- The decoder on a word of the opcode table: 32 bits are a command word, 8 bits a PackBits control byte.
RAW.BYTE's row has the same 8 bits and no fixed one, so the bits alone cannot select it: the command that
runs does (30_encoding.md R90, log 14). -/
def decodeTableWord (nbits w : Nat) : Option Instr :=
  if nbits = 32 then
    match decode (.cmd32 (BitVec.ofNat 32 w)) with
    | .ok i => some i
    | .error _ => none
  else if nbits = 8 then
    match decode (.pb8 (BitVec.ofNat 8 w)) with
    | .ok i => some i
    | .error _ => none
  else none

end Sys2Proof
end

