-- ==== Sys2Proof/Config.lean ====
section
/-! DEFINITION. What an implementation fixes (the capacities) and the free values, which the spec leaves at
"any value" and which nothing in Lean can evaluate. -/

namespace Sys2Proof

/-- A RAM's capacity in bytes: 1 ≤ cap ≤ 2^31 (00_scope.md R7). The bounds travel with the number, so every
claim holds for exactly the capacities the spec allows. -/
abbrev Capacity := { n : Nat // 1 ≤ n ∧ n ≤ 2 ^ 31 }

/-- The OPEN parameters (00_scope.md R7, log 1): the capacities, and where the host's memory map places the three
windows (20_memory.md R67, log 11). -/
structure Config where
  /-- SRC_CAP. -/
  srcCap : Capacity
  /-- DST_CAP. -/
  dstCap : Capacity
  /-- REG_BASE. -/
  regBase : Nat
  /-- SRC_BASE. -/
  srcBase : Nat
  /-- DST_BASE. -/
  dstBase : Nat
  deriving DecidableEq, Repr

/-- The largest capacities the spec allows, with SRC, DST and REG one after the other; DESIGN CHOICE for State.reset
only (logs 1 and 11, unsafe). -/
def Config.largest : Config where
  srcCap := ⟨2 ^ 31, by decide⟩
  dstCap := ⟨2 ^ 31, by decide⟩
  regBase := 2 ^ 32
  srcBase := 0
  dstBase := 2 ^ 31

/-- Free value: the byte of SRC at an address that nothing has written since the reset that began an epoch
(10_state.md R40, 93_implementation_defined.md U6, log 2). Arguments: the epoch, the address. -/
opaque Config.srcAfterReset : Nat → Nat → Byte

/-- Free value: the same for DST (10_state.md R40, 93_implementation_defined.md U6, log 2). -/
opaque Config.dstAfterReset : Nat → Nat → Byte

/-- Free value: what the n-th "any value" host read returns (10_state.md R35, 40_command_interface.md R141,
70_reset_and_hazards.md R304; logs 3 and 4). Argument: the number of such reads before it. -/
opaque Config.freeRead : Nat → Word

end Sys2Proof
end

