-- ==== Sys2Proof/Machine/State.lean ====
section
/-! DEFINITION. The state of PBD-1 as plain data (10_state.md R20), the host agent's remaining operations beside
it (00_scope.md R6, log 5), the reasons a step can stop, and the state after reset (10_state.md R40). -/

namespace Sys2Proof.Machine

/-- The engine's states (10_state.md R27). -/
inductive Fsm where
  | idle
  | filling
  | raw
  | awaitCtrl
  | emitNoop
  | lit
  | repFetch
  | repEmit
  deriving DecidableEq, Repr

/-- STATUS's fields (10_state.md R31). Its reserved bits are read-only 0 and need no storage. -/
structure Status where
  busy : Bool
  done : Bool
  err : Bool
  errcode : BitVec 4
  deriving DecidableEq, Repr

/-- The three error kinds (60_exceptions.md R260): results that STATUS records, not stops of the model. -/
inductive ErrorKind where
  | bufferTooSmall
  | truncatedInput
  | illegalCommand
  deriving DecidableEq, Repr

/-- The two RAMs (10_state.md R38). -/
inductive Ram where
  | src
  | dst
  deriving DecidableEq, Repr

/-- A RAM's contents: the bytes written since reset, by strictly rising address. An address that is not listed
has been written by nobody since reset, and reading it gives a free value (log 2). -/
abbrev Memory := List Host.Cell

/-- A channel of a pseudo-command: where the host places it in SRC, its bytes, its mode (44_compositor.md R236). -/
structure Channel where
  offset : Nat
  bytes : List Byte
  mode : Mode
  deriving DecidableEq, Repr

/-- The four pseudo-commands (44_compositor.md R237 to R240). -/
inductive Call where
  /-- DECODE_RGB (R237). -/
  | rgb (pixels : Nat) (red green blue : Channel)
  /-- DECODE_RGBA (R238). -/
  | rgba (pixels : Nat) (red green blue alpha : Channel)
  /-- DECODE_GRAY (R239). -/
  | gray (pixels : Nat) (color : Channel)
  /-- DECODE_GRAY_A (R240). -/
  | grayA (pixels : Nat) (color alpha : Channel)
  deriving DecidableEq, Repr

/-- What the agenda holds: the host's operations, and the engine's explicit turns between them
(00_scope.md R6, R11; log 5). -/
inductive Turn where
  /-- A host read of the register window at a byte offset (10_state.md R29). -/
  | readReg (offset width : Nat)
  /-- A host write of the register window at a byte offset (10_state.md R29). -/
  | writeReg (offset width : Nat) (value : Word)
  /-- A host read of SRC or DST (20_memory.md R62). -/
  | readRam (ram : Ram) (addr width : Nat)
  /-- A host write of SRC or DST (20_memory.md R62). -/
  | writeRam (ram : Ram) (addr width : Nat) (value : Word)
  /-- A host read at an address of the host's memory map (20_memory.md R67). -/
  | readAt (addr width : Nat)
  /-- A host write at an address of the host's memory map (20_memory.md R67). -/
  | writeAt (addr width : Nat) (value : Word)
  /-- A host write of a word to CMD with no further host step until the command has ended, run as one step
  (42_packbits.md R197, log 6). -/
  | command (word : Word)
  /-- WAIT (30_encoding.md R105). -/
  | wait
  /-- The reset input (70_reset_and_hazards.md R290). -/
  | reset
  /-- The engine's turn: one micro-step (00_scope.md R11). -/
  | engine
  /-- A pseudo-command (44_compositor.md R235). -/
  | call (c : Call)
  /-- A pseudo-command's look at STATUS after a WAIT, which aborts it on an error (44_compositor.md R236). -/
  | stopOnErr
  /-- A pseudo-command's successful end with DST[0 .. length-1] (44_compositor.md R235). -/
  | returnOk (length : Nat)
  deriving DecidableEq, Repr

/-- What the host has learnt (log 17). -/
inductive Received where
  /-- A register read's value. -/
  | reg (offset : Nat) (value : Word)
  /-- A RAM read's value, zero-extended. -/
  | ram (ram : Ram) (addr width : Nat) (value : Word)
  /-- A pseudo-command's ok(bytes). -/
  | ok (bytes : List Byte)
  /-- A pseudo-command's error(code). -/
  | error (code : BitVec 4)
  deriving DecidableEq, Repr

/-- Why a step stops with a fault. -/
inductive Fault where
  /-- Raised by a host access past the end of the register window, SRC or DST, or at an address of the host's map
  that lies in no window of the block: the address does not exist (10_state.md R36, 20_memory.md R62, R67;
  logs 9, 11). Safe. -/
  | hostOutsideWindow
  /-- Raised by an engine read of SRC at SRC_CAP or beyond, which no reachable state makes
  (20_memory.md R65; log 16). Safe. -/
  | engineOutsideSrc
  /-- Raised by an engine write of DST at DST_CAP or beyond, which no reachable state makes
  (20_memory.md R65; log 16). Safe. -/
  | engineOutsideDst
  deriving DecidableEq, Repr

/-- Why a step is refused. -/
inductive Refusal where
  /-- Raised by exec for an instruction that has no meaning yet; none is left. Safe. -/
  | notModelled (mnemonic : String)
  /-- Raised by a host write of SRC while BUSY = 1, a host duty (70_reset_and_hazards.md R302). Safe. -/
  | hostWroteSrcWhileBusy
  /-- Raised by a host write of DST while BUSY = 1, a host duty (70_reset_and_hazards.md R303). Safe. -/
  | hostWroteDstWhileBusy
  /-- Raised by a host access of REG that is not aligned 32-bit, or of SRC or DST that is not 1, 2 or 4 bytes
  aligned to its size, a host duty (70_reset_and_hazards.md R306). Safe. -/
  | hostAccessMalformed
  /-- Raised by a host access at an address of the host's map that lies in two windows of the block, which the spec
  gives no meaning (20_memory.md R67, log 11). Safe. -/
  | hostAddressAmbiguous
  deriving DecidableEq, Repr

/-- Everything the spec gives the machine (10_state.md R20), its parameters (00_scope.md R7, log 1), and the
model's own four fields (logs 2, 3, 5, 17). -/
structure State where
  /-- SRC_CAP, DST_CAP and the three bases; no step changes them. -/
  config : Config
  /-- CMD, the last accepted word (R30). -/
  cmd : Word
  /-- STATUS (R31). -/
  status : Status
  /-- SRC_OFF (R32). -/
  srcOff : Word
  /-- SRC_LEN (R32). -/
  srcLen : Word
  /-- DST_LEN (R33). -/
  dstLen : Word
  /-- RD, the read cursor (R22). -/
  rd : Word
  /-- WR, the write cursor (R23). -/
  wr : Word
  /-- CTRL, hidden (R24). -/
  ctrl : Byte
  /-- CNT, hidden (R25). -/
  cnt : Byte
  /-- REPV, hidden (R26). -/
  repv : Byte
  /-- FSM, hidden (R27). -/
  fsm : Fsm
  /-- SRC's written bytes (R38). -/
  src : Memory
  /-- DST's written bytes (R38). -/
  dst : Memory
  /-- The model's own: which unspecified RAM contents hold, one more after each reset (log 2). -/
  ramEpoch : Nat
  /-- The model's own: how many "any value" reads have been drawn (logs 3, 4). -/
  draws : Nat
  /-- The model's own: the host's remaining operations and the engine's explicit turns, first one next (log 5). -/
  agenda : List Turn
  /-- The model's own: what the host has read, oldest first (log 17). -/
  received : List Received
  deriving DecidableEq, Repr

/-- A meaning's answer. -/
abbrev Result := Host.Outcome State Fault Refusal

/-- STATUS after reset: all 0 (10_state.md R40). -/
def Status.reset : Status where
  busy := false
  done := false
  err := false
  errcode := 0

/-- The state after reset for given capacities (10_state.md R40, 70_reset_and_hazards.md R290): every register
0, FSM IDLE, nothing listed in either RAM, and the model's own fields at their start (log 22). -/
def State.resetWith (c : Config) : State where
  config := c
  cmd := 0
  status := Status.reset
  srcOff := 0
  srcLen := 0
  dstLen := 0
  rd := 0
  wr := 0
  ctrl := 0
  cnt := 0
  repv := 0
  fsm := .idle
  src := []
  dst := []
  ramEpoch := 0
  draws := 0
  agenda := []
  received := []

/-- The state right after reset, with the largest capacities the spec allows (DESIGN CHOICE, logs 1 and 11: the spec
leaves the capacities and the bases open). -/
def State.reset : State := State.resetWith Config.largest

end Sys2Proof.Machine
end

