-- ==== Sys2Proof/Machine/Flags.lean ====
section
/-! DEFINITION. STATUS: its word view and every way it changes (10_state.md R28, R31). -/

namespace Sys2Proof.Machine

/-- The code of each error kind (60_exceptions.md R261). -/
def ErrorKind.code : ErrorKind → BitVec 4
  | .bufferTooSmall => 1
  | .truncatedInput => 2
  | .illegalCommand => 3

/-- STATUS as the host reads it: (24'b0, ERRCODE, 1'b0, ERR, DONE, BUSY) (40_command_interface.md R132). -/
def Status.word (t : Status) : Word :=
  0#24 ++ t.errcode ++ 0#1 ++ BitVec.ofBool t.err ++ BitVec.ofBool t.done ++ BitVec.ofBool t.busy

/-- An accepted CMD write first clears DONE, ERR and ERRCODE (40_command_interface.md R135). -/
def Status.cleared (t : Status) : Status := { t with done := false, err := false, errcode := 0 }

/-- A legal command then sets BUSY (40_command_interface.md R135). -/
def Status.started (t : Status) : Status := { t with busy := true }

/-- finish: BUSY falls and DONE rises (40_command_interface.md R137). -/
def Status.finished (t : Status) : Status := { t with busy := false, done := true }

/-- raise: BUSY and DONE fall, ERR rises with its code (60_exceptions.md R262). -/
def Status.failed (e : ErrorKind) : Status :=
  { busy := false, done := false, err := true, errcode := e.code }

/-- An illegal word sets ERR and ERRCODE 3 and leaves BUSY as it is (40_command_interface.md R135). -/
def Status.rejected (t : Status) : Status :=
  { t with err := true, errcode := ErrorKind.illegalCommand.code }

/-- A host write of w to STATUS: bit 1 clears DONE, bit 2 clears ERR and ERRCODE, all other bits are ignored
(40_command_interface.md R142). -/
def Status.acknowledged (t : Status) (w : Word) : Status where
  busy := t.busy
  done := if w.getLsbD 1 then false else t.done
  err := if w.getLsbD 2 then false else t.err
  errcode := if w.getLsbD 2 then 0 else t.errcode

end Sys2Proof.Machine
end

