-- ==== Sys2Proof/Machine/Operands.lean ====
section
/-! DEFINITION. The operands of commands and stream elements: the byte S(RD) and where it lies, the write
position, the first cursor and engine state of a command, the acceptance check, the register window's offsets,
and the byte order of the host's wider accesses. -/

namespace Sys2Proof.Machine

/-- Where S(RD) lies: SRC_OFF + RD, a sum that does not wrap (00_scope.md R9, R10). -/
def State.readAddr (s : State) : Nat := s.srcOff.toNat + s.rd.toNat

/-- Whether the channel has a byte left: RD < SRC_LEN (10_state.md R22, log 13). -/
def State.hasInput (s : State) : Bool := decide (s.rd.toNat < s.srcLen.toNat)

/-- Whether the next write position lies in the output buffer: WR < DST_LEN (60_exceptions.md R264). -/
def State.hasRoom (s : State) : Bool := decide (s.wr.toNat < s.dstLen.toNat)

/-- WR at a command's start: 0 for FILL, the slot for a channel command (40_command_interface.md R135). -/
def startWr : Instr → Word
  | .fill _ => 0
  | .unpackRaw s => s.setWidth 32
  | .unpackPb s => s.setWidth 32
  | .dispatch s _ => s.setWidth 32
  | .pbNop => 0
  | .pbLit _ => 0
  | .pbRep _ => 0
  | .rawByte _ => 0

/-- The engine's first state of a command (40_command_interface.md R135). A stream element is no command. -/
def startFsm : Instr → Fsm
  | .fill _ => .filling
  | .unpackRaw _ => .raw
  | .unpackPb _ => .awaitCtrl
  | .dispatch _ .raw => .raw
  | .dispatch _ .packBits => .awaitCtrl
  | .pbNop => .idle
  | .pbLit _ => .idle
  | .pbRep _ => .idle
  | .rawByte _ => .idle

/-- Whether SRC_OFF + SRC_LEN ≤ SRC_CAP, without wrap (10_state.md R32, R34). -/
def State.channelFits (s : State) : Bool :=
  decide (s.srcOff.toNat + s.srcLen.toNat ≤ s.config.srcCap.val)

/-- Whether DST_LEN ≤ DST_CAP (10_state.md R33). -/
def State.bufferFits (s : State) : Bool := decide (s.dstLen.toNat ≤ s.config.dstCap.val)

/-- ranges_ok: every command checks DST_LEN, all but FILL check the channel (40_command_interface.md R134). -/
def State.rangesOk (i : Instr) (s : State) : Bool :=
  match i with
  | .fill _ => s.bufferFits
  | .unpackRaw _ => s.bufferFits && s.channelFits
  | .unpackPb _ => s.bufferFits && s.channelFits
  | .dispatch _ _ => s.bufferFits && s.channelFits
  | .pbNop => false
  | .pbLit _ => false
  | .pbRep _ => false
  | .rawByte _ => false

/-- The word a host writes to CMD to start a command (30_encoding.md R92); a stream element has none. -/
def commandWord (i : Instr) : Word :=
  match encode i with
  | .cmd32 w => w
  | .pb8 _ => 0
  | .raw8 _ => 0

/-- The eight words of the register window (10_state.md R29). -/
inductive Reg where
  | cmd
  | status
  | srcOff
  | srcLen
  | dstLen
  | rdCur
  | wrCur
  | reserved
  deriving DecidableEq, Repr

/-- The register at an aligned offset; the window has no offset beyond 0x1F (10_state.md R29, R36). -/
def regAt : Nat → Option Reg
  | 0x00 => some .cmd
  | 0x04 => some .status
  | 0x08 => some .srcOff
  | 0x0C => some .srcLen
  | 0x10 => some .dstLen
  | 0x14 => some .rdCur
  | 0x18 => some .wrCur
  | 0x1C => some .reserved
  | _ => none

/-- A register access is aligned and 32 bits wide (20_memory.md R66). -/
def regAccessOk (offset width : Nat) : Bool := width == 4 && offset % 4 == 0

/-- A RAM access is of 1, 2 or 4 bytes and aligned to its size (20_memory.md R62). -/
def ramAccessOk (addr width : Nat) : Bool :=
  (width == 1 || width == 2 || width == 4) && addr % width == 0

/-- A place in one of the three windows (20_memory.md R67). -/
inductive Place where
  | reg (offset : Nat)
  | ram (ram : Ram) (addr : Nat)
  deriving DecidableEq, Repr

/-- An address's offset in a window, if it lies there. -/
def offsetIn (base size addr : Nat) : Option Nat :=
  if base ≤ addr ∧ addr < base + size then some (addr - base) else none

/-- The places an address of the host's map names: one where it lies in one window, none outside the block. REG has
32 bytes, SRC SRC_CAP and DST DST_CAP (20_memory.md R67). -/
def placesAt (c : Config) (addr : Nat) : List Place :=
  ((offsetIn c.regBase 32 addr).map Place.reg).toList
    ++ ((offsetIn c.srcBase c.srcCap.val addr).map (Place.ram .src)).toList
    ++ ((offsetIn c.dstBase c.dstCap.val addr).map (Place.ram .dst)).toList

/-- The low bytes of a word, lowest first: a host access is little-endian (20_memory.md R62). -/
def bytesOfWord (v : Word) : Nat → List Byte
  | 0 => []
  | n + 1 => v.extractLsb' 0 8 :: bytesOfWord (v >>> 8) n

/-- The word of up to four bytes, the first in the least significant place (20_memory.md R62). -/
def wordOfBytes : List Byte → Word
  | [] => 0
  | b :: bs => (wordOfBytes bs <<< 8) ||| b.setWidth 32

/-- A number as a word, or the largest word where it does not fit: a pseudo-command's host never wraps a
length (44_compositor.md R236, log 12). -/
def wordOfNat (n : Nat) : Word := BitVec.ofNat 32 (min n (2 ^ 32 - 1))

end Sys2Proof.Machine
end

