-- ==== Sys2Proof/Machine/Ops.lean ====
section
/-! DEFINITION. The shared operations: memory, the engine's byte accesses, the end of a command, taking an error
and returning from one, the acceptance of a command word, and host register access. -/

namespace Sys2Proof.Machine

/-- Runs the next piece on the state an outcome answers, or stops with it. -/
def andThen (o : Result) (f : State → Result) : Result :=
  match o with
  | .next s => f s
  | .fault r => .fault r
  | .refused r => .refused r

/-! Memory: a list of written bytes in canonical form (log 2). -/

/-- Canonical form: addresses strictly rise. An unlisted address reads as "not written since reset", which no
listed entry does, so equal contents are equal lists. -/
abbrev Memory.wf (m : Memory) : Prop := m.Pairwise (fun x y => x.1 < y.1)

/-- The byte written at an address since reset, if any. -/
def Memory.get? : Memory → Nat → Option Byte
  | [], _ => none
  | (b, v) :: m, a => if b = a then some v else Memory.get? m a

/-- Writes one byte. -/
def Memory.write : Memory → Nat → Byte → Memory
  | [], a, v => [(a, v)]
  | (b, w) :: m, a, v =>
    if a < b then (a, v) :: (b, w) :: m
    else if a = b then (a, v) :: m
    else (b, w) :: Memory.write m a v

/-- Writes bytes at consecutive addresses, the first at the lowest (20_memory.md R62). -/
def Memory.writeBytes : Memory → Nat → List Byte → Memory
  | m, _, [] => m
  | m, a, v :: vs => Memory.writeBytes (m.write a v) (a + 1) vs

/-- The byte SRC holds: the one written, or a free value (10_state.md R40, log 2). -/
def State.srcByte (s : State) (a : Nat) : Byte :=
  (s.src.get? a).getD (Config.srcAfterReset s.ramEpoch a)

/-- The byte DST holds: the one written, or a free value (10_state.md R40, log 2). -/
def State.dstByte (s : State) (a : Nat) : Byte :=
  (s.dst.get? a).getD (Config.dstAfterReset s.ramEpoch a)

/-- The byte a RAM holds. -/
def State.ramByte (s : State) : Ram → Nat → Byte
  | .src, a => s.srcByte a
  | .dst, a => s.dstByte a

/-- A RAM's capacity (00_scope.md R7). -/
def State.ramCap (s : State) : Ram → Nat
  | .src => s.config.srcCap.val
  | .dst => s.config.dstCap.val

/-! The engine's accesses (20_memory.md R64). -/

/-- Reads S(RD) and gives it to the rest of the micro-step; an address at SRC_CAP or beyond does not exist
(20_memory.md R65, log 16). -/
def withInput (s : State) (f : Byte → Result) : Result :=
  if s.readAddr < s.config.srcCap.val then f (s.srcByte s.readAddr) else .fault .engineOutsideSrc

/-- RD <- RD + 1 (10_state.md R22). -/
def consume (s : State) : State := { s with rd := s.rd + 1 }

/-- D(WR) <- b ; WR <- WR + step: the stride 4 for a channel byte, 1 for FILL (10_state.md R23). An address at
DST_CAP or beyond does not exist (20_memory.md R65, log 16). -/
def store (b : Byte) (stride : Word) (s : State) : Result :=
  if s.wr.toNat < s.config.dstCap.val then
    .next { s with dst := s.dst.write s.wr.toNat b, wr := s.wr + stride }
  else .fault .engineOutsideDst

/-! The ends of a command. -/

/-- finish: the command ends with success (40_command_interface.md R137). -/
def finish (s : State) : State := { s with fsm := .idle, status := s.status.finished }

/-- TAKING AN ERROR: raise E. The engine goes idle, BUSY and DONE fall, ERR and ERRCODE record the error, and
RD and WR stay as they are for RD_CUR and WR_CUR to show (60_exceptions.md R262, R268). -/
def raiseError (e : ErrorKind) (s : State) : State :=
  { s with fsm := .idle, status := Status.failed e }

/-- RETURNING FROM AN ERROR: a host write of w to STATUS (40_command_interface.md R142, 60_exceptions.md R268).
Nothing is resumed. -/
def acknowledge (w : Word) (s : State) : State := { s with status := s.status.acknowledged w }

/-- The error that acceptance itself raises: WR <- 0, ERR, ERRCODE 3; BUSY stays 0 and the engine stays as it
is (40_command_interface.md R135, 60_exceptions.md R263). -/
def rejectCommand (s : State) : State := { s with wr := 0, status := s.status.rejected }

/-- A legal command's start (40_command_interface.md R135, R136): BUSY rises, WR and FSM take the command's
first values; CTRL, CNT and REPV keep theirs. -/
def startCommand (i : Instr) (s : State) : State :=
  { s with status := s.status.started, wr := startWr i, fsm := startFsm i }

/-- What every accepted CMD write does first (40_command_interface.md R135). -/
def latchCommand (w : Word) (s : State) : State :=
  { s with cmd := w, status := s.status.cleared, rd := 0 }

/-- An accepted host write of w to CMD, one atomic step (40_command_interface.md R135). -/
def acceptCommand (w : Word) (s : State) : State :=
  match decodeCommand w with
  | .ok i => if s.rangesOk i then startCommand i (latchCommand w s) else rejectCommand (latchCommand w s)
  | .error _ => rejectCommand (latchCommand w s)

/-! The register window (10_state.md R29). -/

/-- A register's value for the host. RD_CUR and WR_CUR are RD and WR while BUSY = 0 and a free value drawn
afresh while BUSY = 1 (10_state.md R35, 40_command_interface.md R132, R141; log 3). -/
def State.regValue (s : State) : Reg → Word
  | .cmd => s.cmd
  | .status => s.status.word
  | .srcOff => s.srcOff
  | .srcLen => s.srcLen
  | .dstLen => s.dstLen
  | .rdCur => if s.status.busy then Config.freeRead s.draws else s.rd
  | .wrCur => if s.status.busy then Config.freeRead s.draws else s.wr
  | .reserved => 0

/-- How many free values a register read draws. -/
def State.regDraws (s : State) : Reg → Nat
  | .cmd => 0
  | .status => 0
  | .srcOff => 0
  | .srcLen => 0
  | .dstLen => 0
  | .rdCur => if s.status.busy then 1 else 0
  | .wrCur => if s.status.busy then 1 else 0
  | .reserved => 0

/-- A host write to a register. While BUSY = 1 a write to CMD, SRC_OFF, SRC_LEN or DST_LEN is ignored
(40_command_interface.md R131, R140); STATUS clears bits (R142); RD_CUR, WR_CUR and 0x1C ignore writes (R143). -/
def writeRegister (r : Reg) (v : Word) (s : State) : State :=
  match r with
  | .cmd => if s.status.busy then s else acceptCommand v s
  | .status => acknowledge v s
  | .srcOff => if s.status.busy then s else { s with srcOff := v }
  | .srcLen => if s.status.busy then s else { s with srcLen := v }
  | .dstLen => if s.status.busy then s else { s with dstLen := v }
  | .rdCur => s
  | .wrCur => s
  | .reserved => s

/-- Reset (70_reset_and_hazards.md R290, R291): every register and the engine at their reset values, a running
command aborted without record, and both RAMs with unspecified contents, which are not those of the reset
before (log 2). The host's own part goes on (log 18). -/
def applyReset (s : State) : State :=
  { State.resetWith s.config with
    ramEpoch := s.ramEpoch + 1, draws := s.draws, agenda := s.agenda, received := s.received }

end Sys2Proof.Machine
end

