-- ==== Sys2Proof/Machine/Compositor.lean ====
section
/-! DEFINITION. The pseudo-commands as host sequences (44_compositor.md R236 to R240). -/

namespace Sys2Proof.Machine

/-- Place: one host byte write for each byte of a channel that lies inside SRC. A slice that does not fit is
placed as far as it fits, and its channel step then ends with IllegalCommand (44_compositor.md R236, R242;
log 12). -/
def placeBytes (cap : Nat) : Nat → List Byte → List Turn
  | _, [] => []
  | a, b :: bs =>
    if a < cap then .writeRam .src a 1 (b.setWidth 32) :: placeBytes cap (a + 1) bs
    else placeBytes cap (a + 1) bs

/-- The Place step of one channel (44_compositor.md R236). -/
def placeChannel (cap : Nat) (c : Channel) : List Turn := placeBytes cap c.offset c.bytes

/-- Size: WR DST_LEN, 4·pixel_count (44_compositor.md R236, log 12). -/
def sizeStep (pixels : Nat) : List Turn := [.writeReg 0x10 4 (wordOfNat (4 * pixels))]

/-- F(v) (44_compositor.md R236). -/
def fillSteps (v : Byte) : List Turn := [.command (fillWord v), .wait, .stopOnErr]

/-- CH(s, o, n, m) (44_compositor.md R236). -/
def channelSteps (slot : Slot) (c : Channel) : List Turn :=
  [.writeReg 0x08 4 (wordOfNat c.offset), .writeReg 0x0C 4 (wordOfNat c.bytes.length),
    .command (dispatchWord slot c.mode), .wait, .stopOnErr]

/-- The pixel count of a call. -/
def callPixels : Call → Nat
  | .rgb n _ _ _ => n
  | .rgba n _ _ _ _ => n
  | .gray n _ => n
  | .grayA n _ _ => n

/-- The fill byte: 0xFF without an alpha channel, 0x00 with one (44_compositor.md R237 to R240, R244). -/
def callFill : Call → Byte
  | .rgb _ _ _ _ => 0xFF
  | .rgba _ _ _ _ _ => 0x00
  | .gray _ _ => 0xFF
  | .grayA _ _ _ => 0x00

/-- The slices a call places; a grayscale call places its colour once (44_compositor.md R239, R240). -/
def callSlices : Call → List Channel
  | .rgb _ r g b => [r, g, b]
  | .rgba _ r g b a => [r, g, b, a]
  | .gray _ c => [c]
  | .grayA _ c a => [c, a]

/-- The channel steps of a call in slot order (44_compositor.md R237 to R240). -/
def callChannels : Call → List (Slot × Channel)
  | .rgb _ r g b => [(0, r), (1, g), (2, b)]
  | .rgba _ r g b a => [(0, r), (1, g), (2, b), (3, a)]
  | .gray _ c => [(0, c), (1, c), (2, c)]
  | .grayA _ c a => [(0, c), (1, c), (2, c), (3, a)]

/-- The whole sequence of a pseudo-command for a given SRC_CAP: Place, Size, F, the channel steps, and the
return of DST[0 .. 4·pixel_count - 1] (44_compositor.md R237 to R240). -/
def expandCall (cap : Nat) (c : Call) : List Turn :=
  (callSlices c).flatMap (placeChannel cap) ++ sizeStep (callPixels c) ++ fillSteps (callFill c)
    ++ (callChannels c).flatMap (fun p => channelSteps p.1 p.2) ++ [.returnOk (4 * callPixels c)]

/-- What is left of the agenda when a pseudo-command is aborted: what stands after its return
(44_compositor.md R241). -/
def dropCall : List Turn → List Turn
  | [] => []
  | .returnOk _ :: rest => rest
  | _ :: rest => dropCall rest

end Sys2Proof.Machine
end

