-- ==== Sys2Proof/Machine/Fill.lean ====
section
/-! DEFINITION. FILL's micro-step (40_command_interface.md R146). -/

namespace Sys2Proof.Machine

/-- State FILLING: one byte at WR, or the end at DST_LEN (40_command_interface.md R146, log 13). -/
def fillStep (s : State) : Result :=
  if s.hasRoom then store (fillvField s.cmd) 1 s else .next (finish s)

end Sys2Proof.Machine
end

