-- ==== Sys2Proof/Machine/RawUnpacker.lean ====
section
/-! DEFINITION. The Raw Unpacker's micro-step and its element RAW.BYTE (41_raw_unpacker.md R161, R163). -/

namespace Sys2Proof.Machine

/-- A consumed data byte b: BufferTooSmall where WR ≥ DST_LEN, else D(WR) <- b ; WR <- WR + 4 (41_raw_unpacker.md R161). -/
def emitByte (b : Byte) (s : State) : Result :=
  if s.hasRoom then store b 4 s else .next (raiseError .bufferTooSmall s)

/-- RAW.BYTE b: the byte is consumed, then written or refused for want of room (41_raw_unpacker.md R161). -/
def rawElement (b : Byte) (s : State) : Result := emitByte b (consume s)

/-- State RAW: the end of the channel, or its next byte (41_raw_unpacker.md R163). -/
def rawStep (s : State) : Result :=
  if s.hasInput then withInput s (fun b => rawElement b s) else .next (finish s)

end Sys2Proof.Machine
end

