-- ==== Sys2Proof/Machine/PackBits.lean ====
section
/-! DEFINITION. The PackBits decoder's micro-steps, one definition per state (42_packbits.md R196). -/

namespace Sys2Proof.Machine

/-- The control byte 0x80 is consumed (42_packbits.md R183, R186, R196). -/
def openNop (s : State) : State := { consume s with ctrl := 0x80, fsm := .emitNoop }

/-- PB.LIT's control byte is consumed: CNT <- n + 1 (42_packbits.md R183, R196). -/
def openLiteral (n : BitVec 7) (s : State) : State :=
  { consume s with ctrl := litControl n, cnt := BitVec.ofNat 8 (literalCount n), fsm := .lit }

/-- PB.REP's control byte is consumed: CNT <- 257 - c, computed in natural numbers (42_packbits.md R183, R196;
30_encoding.md R96). -/
def openRepeat (c : Byte) (s : State) : State :=
  { consume s with ctrl := c, cnt := BitVec.ofNat 8 (repeatCount c), fsm := .repFetch }

/-- A control byte is consumed and its packet begun, by class (30_encoding.md R94). No control byte decodes to a
command or to RAW.BYTE. -/
def openPacket (i : Instr) (s : State) : State :=
  match i with
  | .pbNop => openNop s
  | .pbLit n => openLiteral n s
  | .pbRep c => openRepeat c s
  | .fill _ => s
  | .unpackRaw _ => s
  | .unpackPb _ => s
  | .dispatch _ _ => s
  | .rawByte _ => s

/-- State AWAIT_CTRL: the end of the stream at a packet boundary, or the next control byte
(42_packbits.md R182, R183). -/
def awaitStep (s : State) : Result :=
  if s.hasInput then withInput s (fun c => .next (openPacket (decodeControl c) s)) else .next (finish s)

/-- State EMIT_NOOP: back to AWAIT_CTRL (42_packbits.md R196). -/
def noopStep (s : State) : State := { s with fsm := .awaitCtrl }

/-- CNT <- CNT - 1 after a write, and AWAIT_CTRL if that makes it 0; the state stays otherwise
(42_packbits.md R196). -/
def countDown (s : State) : State :=
  { s with cnt := s.cnt - 1, fsm := if s.cnt - 1 = 0 then .awaitCtrl else s.fsm }

/-- State LIT: a missing byte raises TruncatedInput; else it is consumed, and written or refused for want of
room (42_packbits.md R187, R196). -/
def litStep (s : State) : Result :=
  if s.hasInput then
    withInput s (fun b =>
      if (consume s).hasRoom then andThen (store b 4 (consume s)) (fun t => .next (countDown t))
      else .next (raiseError .bufferTooSmall (consume s)))
  else .next (raiseError .truncatedInput s)

/-- State REP_FETCH: a missing value raises TruncatedInput; else REPV takes it (42_packbits.md R189, R196). -/
def repFetchStep (s : State) : Result :=
  if s.hasInput then withInput s (fun v => .next { consume s with repv := v, fsm := .repEmit })
  else .next (raiseError .truncatedInput s)

/-- State REP_EMIT: one write of REPV, or BufferTooSmall (42_packbits.md R189, R196). -/
def repEmitStep (s : State) : Result :=
  if s.hasRoom then andThen (store s.repv 4 s) (fun t => .next (countDown t))
  else .next (raiseError .bufferTooSmall s)

end Sys2Proof.Machine
end

