-- ==== Sys2Proof/Machine/Engine.lean ====
section
/-! DEFINITION. The engine agent: one micro-step (00_scope.md R11, 42_packbits.md R196), and the runs of them that
make a whole packet and a whole command (42_packbits.md R197). -/

namespace Sys2Proof.Machine

/-- One micro-step. Every state with BUSY = 1 has exactly one (42_packbits.md R198); IDLE has none, and the
engine then stays as it is (40_command_interface.md R139). -/
def microStep (s : State) : Result :=
  match s.fsm with
  | .idle => .next s
  | .filling => fillStep s
  | .raw => rawStep s
  | .awaitCtrl => awaitStep s
  | .emitNoop => .next (noopStep s)
  | .lit => litStep s
  | .repFetch => repFetchStep s
  | .repEmit => repEmitStep s

/-- The command has ended (10_state.md R27). -/
def commandEnded (f : Fsm) : Bool := decide (f = .idle)

/-- The packet has ended: the next control byte is awaited, or the command has ended (42_packbits.md R191). -/
def packetEnded (f : Fsm) : Bool := decide (f = .awaitCtrl) || decide (f = .idle)

/-- Micro-steps until the engine's state is as asked, at most as many as the first argument. -/
def runEngine (stop : Fsm → Bool) : Nat → State → Result
  | 0, s => .next s
  | n + 1, s => if stop s.fsm then .next s else andThen (microStep s) (runEngine stop n)

/-- The micro-step bound of a command that has just started: DST_LEN + 1 for FILL, and 2·SRC_LEN +
⌈DST_LEN/4⌉ + 2 for a channel command (40_command_interface.md R138, 42_packbits.md R198). -/
def commandBound (s : State) : Nat :=
  match s.fsm with
  | .filling => s.dstLen.toNat + 1
  | .idle => 0
  | .raw => 2 * s.srcLen.toNat + (s.dstLen.toNat + 3) / 4 + 2
  | .awaitCtrl => 2 * s.srcLen.toNat + (s.dstLen.toNat + 3) / 4 + 2
  | .emitNoop => 2 * s.srcLen.toNat + (s.dstLen.toNat + 3) / 4 + 2
  | .lit => 2 * s.srcLen.toNat + (s.dstLen.toNat + 3) / 4 + 2
  | .repFetch => 2 * s.srcLen.toNat + (s.dstLen.toNat + 3) / 4 + 2
  | .repEmit => 2 * s.srcLen.toNat + (s.dstLen.toNat + 3) / 4 + 2

/-- A whole command: the CMD write (40_command_interface.md R135), then micro-steps until the engine is idle
again. A CMD write while BUSY = 1 is ignored (R140). -/
def runCommand (i : Instr) (s : State) : Result :=
  if s.status.busy then .next s
  else
    let t := acceptCommand (commandWord i) s
    runEngine commandEnded (commandBound t) t

/-- The rest of a packet whose control byte has just been consumed: at most 1 + 128 micro-steps, REP_FETCH and
then 128 writes (42_packbits.md R187, R189). -/
def runPacket (s : State) : Result := runEngine packetEnded 129 s

end Sys2Proof.Machine
end

