-- ==== Sys2Proof/Machine/Commands.lean ====
section
/-! DEFINITION. The meanings of the four command words: the whole effect of each, from its acceptance to its end
(40_command_interface.md R130). -/

namespace Sys2Proof.Machine

/-- FILL #v (40_command_interface.md R145). -/
def execFill (v : Byte) (s : State) : Result := runCommand (.fill v) s

/-- UNPACK.RAW slot (41_raw_unpacker.md R160). -/
def execUnpackRaw (slot : Slot) (s : State) : Result := runCommand (.unpackRaw slot) s

/-- UNPACK.PB slot (42_packbits.md R180, R181). -/
def execUnpackPb (slot : Slot) (s : State) : Result := runCommand (.unpackPb slot) s

/-- DISPATCH slot, m: the body of UNPACK.RAW or of UNPACK.PB, by the mode (43_dispatcher.md R220). -/
def execDispatch (slot : Slot) (m : Mode) (s : State) : Result := runCommand (.dispatch slot m) s

end Sys2Proof.Machine
end

