-- ==== Sys2Proof/Machine/Elements.lean ====
section
/-! DEFINITION. The meanings of the four stream elements: the whole of each packet, and one raw byte. The fetch
that finds the element in the stream is step's (log 19). -/

namespace Sys2Proof.Machine

/-- PB.NOP (42_packbits.md R186). -/
def execPbNop (s : State) : Result := runPacket (openNop s)

/-- PB.LIT n: the n + 1 bytes that follow are copied (42_packbits.md R187, R188). -/
def execPbLit (n : BitVec 7) (s : State) : Result := runPacket (openLiteral n s)

/-- PB.REP c: the byte that follows is written 257 - c times (42_packbits.md R189, R190). -/
def execPbRep (c : Byte) (s : State) : Result := runPacket (openRepeat c s)

/-- RAW.BYTE b (41_raw_unpacker.md R161). -/
def execRawByte (b : Byte) (s : State) : Result := rawElement b s

end Sys2Proof.Machine
end

