-- ==== Sys2Proof/Machine/Dispatch.lean ====
section
/-! DEFINITION. The meaning of every instruction, one arm per row of the opcode table. -/

namespace Sys2Proof.Machine

def exec (i : Instr) (s : State) : Host.Outcome State Fault Refusal :=
  match i with
  | .fill v => Sys2Proof.Machine.execFill v s
  | .unpackRaw slot => Sys2Proof.Machine.execUnpackRaw slot s
  | .unpackPb slot => Sys2Proof.Machine.execUnpackPb slot s
  | .dispatch slot m => Sys2Proof.Machine.execDispatch slot m s
  | .pbNop => Sys2Proof.Machine.execPbNop s
  | .pbLit n => Sys2Proof.Machine.execPbLit n s
  | .pbRep c => Sys2Proof.Machine.execPbRep c s
  | .rawByte b => Sys2Proof.Machine.execRawByte b s

end Sys2Proof.Machine
end

