-- ==== Sys2Proof/Machine/Agents.lean ====
section
/-! DEFINITION. The turns of the two agents (00_scope.md R6): the engine's, which fetches a stream element from SRC
and runs it, and the host's, one definition per operation. -/

namespace Sys2Proof.Machine

/-- The engine's turn while the host waits or has nothing to do: a stream element at RD is fetched, decoded in
the format of the running command (30_encoding.md R90) and run whole (42_packbits.md R197); in every other
case one micro-step (logs 6, 7). -/
def engineTurn (s : State) : Result :=
  match s.fsm with
  | .awaitCtrl => if s.hasInput then withInput s (fun c => exec (decodeControl c) s) else microStep s
  | .raw => if s.hasInput then withInput s (fun b => exec (.rawByte b) s) else microStep s
  | .idle => microStep s
  | .filling => microStep s
  | .emitNoop => microStep s
  | .lit => microStep s
  | .repFetch => microStep s
  | .repEmit => microStep s

/-- The host keeps what it has read (log 17). -/
def record (r : Received) (s : State) : State := { s with received := s.received ++ [r] }

/-- A host register read (10_state.md R29, 40_command_interface.md R132); it has no side effect on the block. -/
def hostReadReg (offset width : Nat) (s : State) : Result :=
  if regAccessOk offset width then
    match regAt offset with
    | some r => .next { record (.reg offset (s.regValue r)) s with draws := s.draws + s.regDraws r }
    | none => .fault .hostOutsideWindow
  else .refused .hostAccessMalformed

/-- A host register write (10_state.md R29). -/
def hostWriteReg (offset width : Nat) (v : Word) (s : State) : Result :=
  if regAccessOk offset width then
    match regAt offset with
    | some r => .next (writeRegister r v s)
    | none => .fault .hostOutsideWindow
  else .refused .hostAccessMalformed

/-- The bytes a RAM holds at consecutive addresses. -/
def State.ramBytes (s : State) (ram : Ram) (a : Nat) : Nat → List Byte
  | 0 => []
  | n + 1 => s.ramByte ram a :: s.ramBytes ram (a + 1) n

/-- The low bytes of a free value, zero-extended. -/
def lowBytes (width : Nat) (v : Word) : Word := wordOfBytes (bytesOfWord v width)

/-- Whether a host RAM access lies inside the RAM (20_memory.md R62, log 9). -/
def State.ramInside (s : State) (ram : Ram) (addr width : Nat) : Bool :=
  decide (addr + width ≤ s.ramCap ram)

/-- What a host RAM read returns: the bytes held, little-endian; but a read of DST while BUSY = 1 returns a free
value (20_memory.md R62, R69; 70_reset_and_hazards.md R304; log 4). DESIGN CHOICE, unsafe (log 23): a DST read made
after BUSY has fallen but before any STATUS read has returned BUSY = 0 is exact too; R69, R70, R137 and R304 promise
that only from such a STATUS read on, and any value only while BUSY = 1. -/
def hostReadRam (ram : Ram) (addr width : Nat) (s : State) : Result :=
  if ramAccessOk addr width then
    if s.ramInside ram addr width then
      if s.status.busy && ram == .dst then
        .next { record (.ram ram addr width (lowBytes width (Config.freeRead s.draws))) s with
          draws := s.draws + 1 }
      else .next (record (.ram ram addr width (wordOfBytes (s.ramBytes ram addr width))) s)
    else .fault .hostOutsideWindow
  else .refused .hostAccessMalformed

/-- Stores bytes in a RAM. -/
def storeRam (ram : Ram) (addr : Nat) (bs : List Byte) (s : State) : State :=
  match ram with
  | .src => { s with src := s.src.writeBytes addr bs }
  | .dst => { s with dst := s.dst.writeBytes addr bs }

/-- The refusal of a host write to a RAM while BUSY = 1 (70_reset_and_hazards.md R302, R303). -/
def busyRefusal : Ram → Refusal
  | .src => .hostWroteSrcWhileBusy
  | .dst => .hostWroteDstWhileBusy

/-- A host RAM write: little-endian, refused while BUSY = 1 (20_memory.md R62; 70_reset_and_hazards.md R302,
R303, R306). -/
def hostWriteRam (ram : Ram) (addr width : Nat) (v : Word) (s : State) : Result :=
  if ramAccessOk addr width then
    if s.ramInside ram addr width then
      if s.status.busy then .refused (busyRefusal ram)
      else .next (storeRam ram addr (bytesOfWord v width) s)
    else .fault .hostOutsideWindow
  else .refused .hostAccessMalformed

/-- A host access at an address of the host's map is the access of the window it lies in (20_memory.md R67). An
address in no window is none of the block's, and one in two has no meaning (log 11). -/
def atPlace (addr : Nat) (access : Place → State → Result) (s : State) : Result :=
  match placesAt s.config addr with
  | [] => .fault .hostOutsideWindow
  | [p] => access p s
  | _ :: _ :: _ => .refused .hostAddressAmbiguous

/-- A host read of a place. -/
def hostRead (width : Nat) (p : Place) (s : State) : Result :=
  match p with
  | .reg offset => hostReadReg offset width s
  | .ram ram addr => hostReadRam ram addr width s

/-- A host write of a place. -/
def hostWrite (width : Nat) (v : Word) (p : Place) (s : State) : Result :=
  match p with
  | .reg offset => hostWriteReg offset width v s
  | .ram ram addr => hostWriteRam ram addr width v s

/-- A CMD write with the command run whole: ignored while BUSY = 1 (40_command_interface.md R140); a legal word
runs its instruction; an illegal one ends with IllegalCommand at acceptance (R135, log 6). -/
def hostCommand (w : Word) (s : State) : Result :=
  if s.status.busy then .next s
  else
    match decode (.cmd32 w) with
    | .ok i => exec i s
    | .error _ => .next (acceptCommand w s)

/-- A pseudo-command's look at STATUS: on an error it returns the code and none of its later steps runs
(44_compositor.md R236, R241). -/
def hostStopOnErr (s : State) : State :=
  if s.status.err then record (.error s.status.errcode) { s with agenda := dropCall s.agenda } else s

/-- The bytes of free values, one drawn for each. -/
def freeBytes : Nat → Nat → List Byte
  | _, 0 => []
  | d, n + 1 => (Config.freeRead d).setWidth 8 :: freeBytes (d + 1) n

/-- A pseudo-command's return of DST[0 .. length-1] by host byte reads (44_compositor.md R235; logs 4, 9, 23). -/
def hostReturnOk (length : Nat) (s : State) : Result :=
  if s.ramInside .dst 0 length then
    if s.status.busy then
      .next { record (.ok (freeBytes s.draws length)) s with draws := s.draws + length }
    else .next (record (.ok (s.ramBytes .dst 0 length)) s)
  else .fault .hostOutsideWindow

/-- One entry of the agenda, taken from the agenda's front (log 5). WAIT stays there while BUSY = 1 and gives
the engine the turn (30_encoding.md R105, 70_reset_and_hazards.md R308, log 8). -/
def takeTurn (t : Turn) (rest : List Turn) (s : State) : Result :=
  match t with
  | .readReg offset width => hostReadReg offset width { s with agenda := rest }
  | .writeReg offset width v => hostWriteReg offset width v { s with agenda := rest }
  | .readRam ram addr width => hostReadRam ram addr width { s with agenda := rest }
  | .writeRam ram addr width v => hostWriteRam ram addr width v { s with agenda := rest }
  | .readAt addr width => atPlace addr (hostRead width) { s with agenda := rest }
  | .writeAt addr width v => atPlace addr (hostWrite width v) { s with agenda := rest }
  | .command w => hostCommand w { s with agenda := rest }
  | .wait => if s.status.busy then engineTurn s else .next { s with agenda := rest }
  | .reset => .next (applyReset { s with agenda := rest })
  | .engine => microStep { s with agenda := rest }
  | .call c => .next { s with agenda := expandCall s.config.srcCap.val c ++ rest }
  | .stopOnErr => .next (hostStopOnErr { s with agenda := rest })
  | .returnOk length => hostReturnOk length { s with agenda := rest }

/-- A command word placed where step takes its next instruction: as the CMD write at the front of the agenda,
with no command running (log 15). -/
def placeCommandWord (w : Word) (s : State) : State :=
  { s with
    fsm := .idle, status := { s.status with busy := false }, agenda := .command w :: s.agenda }

/-- A control byte placed where step takes its next instruction: the first byte of the channel of an UNPACK.PB 0
that has just started, with bytes of zero after it, and the host waiting (log 15). -/
def placeControlByte (c : Byte) (s : State) : State :=
  { s with
    cmd := unpackPbWord 0
    status := s.status.cleared.started
    srcOff := 0
    srcLen := BitVec.ofNat 32 (min longestElement s.config.srcCap.val)
    rd := 0
    wr := 0
    fsm := .awaitCtrl
    src := s.src.writeBytes 0
      (c :: List.replicate (min longestElement s.config.srcCap.val - 1) 0)
    agenda := .wait :: s.agenda }

end Sys2Proof.Machine
end

