-- ==== Sys2Proof/Machine/Step.lean ====
section
/-! DEFINITION. One step of the machine: the agenda's next turn, or the engine's where the agenda is empty. -/

namespace Sys2Proof.Machine

/-- One step (00_scope.md R6; logs 5, 7). With nothing on the agenda the engine moves, and an idle engine stays
idle (40_command_interface.md R139). -/
def step (s : State) : Host.Outcome State Fault Refusal :=
  match s.agenda with
  | [] => engineTurn s
  | t :: rest => takeTurn t rest s

/-- The state with a word of the opcode table placed where step takes its next instruction (log 15): 32 bits as
a CMD write, 8 bits as a PackBits control byte. -/
def State.withFetchWord (s : State) (nbits w : Nat) : State :=
  if nbits = 32 then placeCommandWord (BitVec.ofNat 32 w) s
  else if nbits = 8 then placeControlByte (BitVec.ofNat 8 w) s
  else s

end Sys2Proof.Machine
end

