-- ==== Sys2Proof/Safety.lean ====
section
/-! DEFINITION. The terms claims are made in: the invariant of every state a run can reach, and what a channel's
bytes decode to, written on lists of bytes and not on the machine. -/

namespace Sys2Proof.Machine

/-! The invariant. -/

/-- A command's slot as a number (30_encoding.md R91); FILL has none. -/
def slotOf : Instr → Nat
  | .fill _ => 0
  | .unpackRaw s => s.toNat
  | .unpackPb s => s.toNat
  | .dispatch s _ => s.toNat
  | .pbNop => 0
  | .pbLit _ => 0
  | .pbRep _ => 0
  | .rawByte _ => 0

/-- The mode in which a channel command reads its channel (40_command_interface.md R135); FILL reads none. -/
def modeOf : Instr → Option Mode
  | .fill _ => none
  | .unpackRaw _ => some .raw
  | .unpackPb _ => some .packBits
  | .dispatch _ m => some m
  | .pbNop => none
  | .pbLit _ => none
  | .pbRep _ => none
  | .rawByte _ => none

/-- The PackBits states of the engine (10_state.md R27). -/
def isPackBits (f : Fsm) : Bool :=
  decide (f = .awaitCtrl) || decide (f = .emitNoop) || decide (f = .lit) || decide (f = .repFetch)
    || decide (f = .repEmit)

/-- The states in which the engine counts a run down (10_state.md R25). -/
def isCounting (f : Fsm) : Bool := decide (f = .lit) || decide (f = .repFetch) || decide (f = .repEmit)

/-- The engine states a command passes through (10_state.md R27, 40_command_interface.md R135). -/
def runsIn (i : Instr) (f : Fsm) : Bool :=
  match modeOf i with
  | none => decide (f = .filling)
  | some .raw => decide (f = .raw)
  | some .packBits => isPackBits f

/-- What holds while command i runs. -/
structure State.Running (s : State) (i : Instr) : Prop where
  /-- CMD holds the accepted word of the running command (10_state.md R30, 40_command_interface.md R140). -/
  cmdIsCommand : decodeCommand s.cmd = .ok i
  /-- Its ranges still hold (40_command_interface.md R134, R140). -/
  ranges : s.rangesOk i = true
  /-- The engine is in a state of that command (10_state.md R27). -/
  engineState : runsIn i s.fsm = true
  /-- 0 ≤ RD ≤ SRC_LEN (10_state.md R22). -/
  readCursor : s.rd.toNat ≤ s.srcLen.toNat
  /-- FILL keeps RD = 0 and WR ≤ DST_LEN (40_command_interface.md R145). -/
  fillCursors : modeOf i = none → s.rd = 0 ∧ s.wr.toNat ≤ s.dstLen.toNat
  /-- WR mod 4 = CMD.SLOT while a channel command runs, and WR never exceeds DST_LEN + 3 (10_state.md R23). -/
  channelCursor : modeOf i ≠ none → s.wr.toNat % 4 = slotOf i ∧ s.wr.toNat ≤ s.dstLen.toNat + 3
  /-- A run that is under way has at least one byte to emit (10_state.md R25). -/
  counter : isCounting s.fsm = true → 1 ≤ s.cnt.toNat

/-- The invariant of every state a run can reach. -/
structure State.Inv (s : State) : Prop where
  /-- SRC is in canonical form (log 2). -/
  srcWf : s.src.wf
  /-- DST is in canonical form (log 2). -/
  dstWf : s.dst.wf
  /-- Every written byte of SRC lies inside it (10_state.md R38). -/
  srcInside : ∀ c ∈ s.src, c.1 < s.config.srcCap.val
  /-- Every written byte of DST lies inside it (10_state.md R38). -/
  dstInside : ∀ c ∈ s.dst, c.1 < s.config.dstCap.val
  /-- STATUS.BUSY = 1 exactly when FSM ≠ IDLE (10_state.md R27). -/
  busyIff : s.status.busy = true ↔ s.fsm ≠ .idle
  /-- At most one of BUSY, DONE and ERR is 1 (10_state.md R31). -/
  oneFlag : (s.status.busy = true → s.status.done = false ∧ s.status.err = false) ∧
    (s.status.done = true → s.status.err = false)
  /-- ERRCODE ≠ 0 exactly when ERR = 1 (10_state.md R31). -/
  errcodeIff : s.status.errcode ≠ 0 ↔ s.status.err = true
  /-- ERRCODE 4..15 is never produced (10_state.md R31, 60_exceptions.md R261). -/
  errcodeRange : s.status.errcode.toNat ≤ 3
  /-- CNT holds 0..128 (10_state.md R25). -/
  counterRange : s.cnt.toNat ≤ 128
  /-- While the engine is not idle, a command runs. -/
  running : s.fsm ≠ .idle → ∃ i, s.Running i

/-! What a channel decodes to. -/

/-- A channel's output: each output byte, in stream order, with the number of stream bytes consumed by then;
and whether the stream ended inside a packet. -/
structure Output where
  writes : List (Byte × Nat)
  truncated : Bool
  deriving DecidableEq, Repr

/-- One more byte at the front of an output. -/
def Output.cons (b : Byte) (consumed : Nat) (o : Output) : Output :=
  { o with writes := (b, consumed) :: o.writes }

/-- The output of a raw channel: every byte is an output byte (30_encoding.md R101). The number is how many
bytes stand before. -/
def rawOutput : Nat → List Byte → Output
  | _, [] => ⟨[], false⟩
  | k, b :: bs => (rawOutput (k + 1) bs).cons b (k + 1)

/-- The output of a PackBits channel (30_encoding.md R94 to R100, 42_packbits.md R181). The first number is how
many data bytes of a literal run are still to come, the second how many stream bytes stand before. -/
def packBitsOutput : Nat → Nat → List Byte → Output
  | 0, _, [] => ⟨[], false⟩
  | _ + 1, _, [] => ⟨[], true⟩
  | n + 1, k, b :: bs => (packBitsOutput n (k + 1) bs).cons b (k + 1)
  | 0, _, [c] => if c = 0x80 then ⟨[], false⟩ else ⟨[], true⟩
  | 0, k, c :: v :: bs =>
    if c = 0x80 then packBitsOutput 0 (k + 1) (v :: bs)
    else if c.toNat < 0x80 then packBitsOutput (c.toNat + 1) (k + 1) (v :: bs)
    else
      let rest := packBitsOutput 0 (k + 2) bs
      { rest with writes := List.replicate (257 - c.toNat) (v, k + 2) ++ rest.writes }

/-- The output of a channel in a mode (43_dispatcher.md R220). -/
def channelOutput (m : Mode) (bs : List Byte) : Output :=
  match m with
  | .raw => rawOutput 0 bs
  | .packBits => packBitsOutput 0 0 bs

/-- The current channel's bytes: S(0) to S(SRC_LEN - 1) (00_scope.md R10). -/
def State.channelBytes (s : State) : List Byte :=
  s.ramBytes .src s.srcOff.toNat s.srcLen.toNat

/-- How many output bytes of a slot fit below a length: the least k with slot + 4·k ≥ length
(41_raw_unpacker.md R165). -/
def roomFor (slot length : Nat) : Nat := (length + 3 - slot) / 4

/-- How many output bytes a channel command writes (60_exceptions.md R266, R267). -/
def writtenCount (o : Output) (slot length : Nat) : Nat := min o.writes.length (roomFor slot length)

/-- How a channel command ends: BufferTooSmall where an output byte has no room, else TruncatedInput where the
stream ends inside a packet, else success (42_packbits.md R195, 60_exceptions.md R270). -/
def channelStatus (o : Output) (slot length : Nat) : Status :=
  if roomFor slot length < o.writes.length then Status.failed .bufferTooSmall
  else if o.truncated then Status.failed .truncatedInput
  else { busy := false, done := true, err := false, errcode := 0 }

/-- RD at the end: just past the byte whose write failed (a repeat run's value byte), else all of the channel
(60_exceptions.md R266). -/
def channelRd (o : Output) (slot length channelLength : Nat) : Nat :=
  match o.writes[roomFor slot length]? with
  | some w => w.2
  | none => channelLength

/-- DST's byte at an address after the first n outputs are written from a slot at stride 4
(41_raw_unpacker.md R164, 42_packbits.md R192). -/
def afterWrites (o : Output) (slot n : Nat) (before : Nat → Byte) (a : Nat) : Byte :=
  if slot ≤ a ∧ (a - slot) % 4 = 0 ∧ (a - slot) / 4 < n then
    match o.writes[(a - slot) / 4]? with
    | some w => w.1
    | none => before a
  else before a

/-! What a pseudo-command returns (44_compositor.md R235 to R242). -/

/-- A channel's slice holds the channel's bytes (44_compositor.md R236). -/
def State.holds (s : State) (c : Channel) : Prop :=
  c.offset + c.bytes.length ≤ s.config.srcCap.val ∧ s.ramBytes .src c.offset c.bytes.length = c.bytes

/-- The first failing channel step's code in slot order (44_compositor.md R241). -/
def firstError (length : Nat) : List (Slot × Channel) → Option (BitVec 4)
  | [] => none
  | p :: ps =>
    let st := channelStatus (channelOutput p.2.mode p.2.bytes) p.1.toNat length
    if st.err then some st.errcode else firstError length ps

/-- The byte of an ok result at an address: the decoded byte of the channel whose slot it is, or the fill byte
where that channel's output is shorter or there is none (44_compositor.md R237 to R240, R244). -/
def resultByte (fill : Byte) (chans : List (Slot × Channel)) (a : Nat) : Byte :=
  match chans.find? (fun p => p.1.toNat == a % 4) with
  | some p =>
    match (channelOutput p.2.mode p.2.bytes).writes[a / 4]? with
    | some w => w.1
    | none => fill
  | none => fill

/-- What a pseudo-command returns when its buffer and its slices fit (44_compositor.md R241). -/
def callResult (c : Call) : Received :=
  match firstError (4 * callPixels c) (callChannels c) with
  | some code => .error code
  | none => .ok ((List.range (4 * callPixels c)).map (resultByte (callFill c) (callChannels c)))

/-! Runs. -/

/-- What the host can see of the block without drawing a free value: the registers, the flags and the RAMs
(10_state.md R39: CTRL, CNT, REPV and FSM are hidden). -/
def State.sameVisible (s t : State) : Prop :=
  s.config = t.config ∧ s.cmd = t.cmd ∧ s.status = t.status ∧ s.srcOff = t.srcOff ∧ s.srcLen = t.srcLen ∧
    s.dstLen = t.dstLen ∧ s.rd = t.rd ∧ s.wr = t.wr ∧ s.src = t.src ∧ s.dst = t.dst

/-- Everything but the registers a command writes and DST is the same: the capacities, SRC_OFF, SRC_LEN, DST_LEN,
SRC and the model's own fields. -/
def State.sameSurroundings (s t : State) : Prop :=
  s.config = t.config ∧ s.srcOff = t.srcOff ∧ s.srcLen = t.srcLen ∧ s.dstLen = t.dstLen ∧ s.src = t.src ∧
    s.ramEpoch = t.ramEpoch ∧ s.draws = t.draws ∧ s.agenda = t.agenda ∧ s.received = t.received

end Sys2Proof.Machine
end

