-- ==== Sys2Proof/Certificates/Slice0/Obligations.lean ====
section
/-! DEFINITION. The statements about PBD-1, each from the numbered rules of spec/ that its docstring names. A free
value is never given a number: a statement about one holds for every value of the counter that draws it. -/

open Sys2Proof Sys2Proof.Machine

/-! ## Encoding -/

/-- Sanity: words and bytes written out from the encodings of 30_encoding.md R92, R94 and R101. -/
def Obligations.TabledWordsDecode : Prop :=
  decode (.cmd32 0b00000000000000001111111100000001) = .ok (.fill 0xFF) ∧
  decode (.cmd32 0b00000000000000000000000000010010) = .ok (.unpackRaw 1) ∧
  decode (.cmd32 0b00000000000000000000000000100011) = .ok (.unpackPb 2) ∧
  decode (.cmd32 0b00000000000000000000000000110100) = .ok (.dispatch 3 .raw) ∧
  decode (.cmd32 0b00000000000000000000000001010100) = .ok (.dispatch 1 .packBits) ∧
  decode (.pb8 0b10000000) = .ok .pbNop ∧
  decode (.pb8 0b00000101) = .ok (.pbLit 5) ∧
  decode (.pb8 0b10000001) = .ok (.pbRep 0x81) ∧
  decode (.raw8 0b10000000) = .ok (.rawByte 0x80)

/-- 30_encoding.md R92: a word selects a row exactly when (w AND mask) = match, at most one row matches any word,
and the words of the four rows are the ones the rule lists. -/
def Obligations.CommandRowsSelectTheirWords : Prop :=
  (∀ w : Word,
    (w &&& 0xFFFF00FF = 0x00000001 ↔ ∃ v, decodeCommand w = .ok (.fill v)) ∧
    (w &&& 0xFFFFFFCF = 0x00000002 ↔ ∃ s, decodeCommand w = .ok (.unpackRaw s)) ∧
    (w &&& 0xFFFFFFCF = 0x00000003 ↔ ∃ s, decodeCommand w = .ok (.unpackPb s)) ∧
    (w &&& 0xFFFFFF8F = 0x00000004 ↔ ∃ s m, decodeCommand w = .ok (.dispatch s m))) ∧
  (∀ w : Word, (commandRows.filter (fun r => r.selects w)).length ≤ 1) ∧
  (∀ v : Byte, decodeCommand (0x00000001 ||| (v.setWidth 32 <<< 8)) = .ok (.fill v)) ∧
  (∀ s : Slot, decodeCommand (0x02 ||| (s.setWidth 32 <<< 4)) = .ok (.unpackRaw s) ∧
    decodeCommand (0x03 ||| (s.setWidth 32 <<< 4)) = .ok (.unpackPb s) ∧
    decodeCommand (0x04 ||| (s.setWidth 32 <<< 4)) = .ok (.dispatch s .raw) ∧
    decodeCommand (0x04 ||| (s.setWidth 32 <<< 4) ||| (1 <<< 6)) = .ok (.dispatch s .packBits))

/-- 30_encoding.md R94: the class of a packet and its length depend on the control byte alone, and the classes are
the ones of the rule's table. -/
def Obligations.ControlBytesHaveThreeClasses : Prop :=
  ∀ c : Byte,
    (c.toInt = -128 → decodeControl c = .pbNop ∧ (decodeControl c).streamLength = 1) ∧
    (0 ≤ c.toInt → decodeControl c = .pbLit (c.setWidth 7) ∧ (decodeControl c).streamLength = c.toNat + 2) ∧
    (-127 ≤ c.toInt → c.toInt ≤ -1 → decodeControl c = .pbRep c ∧ (decodeControl c).streamLength = 2)

/-- 30_encoding.md R95, R96 and 10_state.md R25: a literal run loads CNT with n + 1, in 1..128; a repeat run loads
it with 1 + (-sc) = 257 - c, in 2..128; neither wraps in the 8 bits of CNT. -/
def Obligations.RunCountsDoNotWrap : Prop :=
  ∀ s : State,
    (∀ n : BitVec 7, (openLiteral n s).cnt.toNat = n.toNat + 1 ∧ n.toNat + 1 ≤ 128) ∧
    (∀ c : Byte, 0x81 ≤ c.toNat →
      ((openRepeat c s).cnt.toNat : Int) = 1 + -c.toInt ∧ (openRepeat c s).cnt.toNat = 257 - c.toNat ∧
        2 ≤ 257 - c.toNat ∧ 257 - c.toNat ≤ 128)

/-- Headline, encoding: decoding the encoding of a well-formed instruction gives it back, every operand at every
value (30_encoding.md R92, R94, R101). -/
def Obligations.DecodeEncodeRoundTrip : Prop :=
  ∀ i : Instr, i.wellFormed = true → decode (encode i) = .ok i

/-- The other direction: each code has one meaning and that meaning spells exactly that code; what the decoder
gives is well formed (30_encoding.md R92, R94, R101). -/
def Obligations.EncodeDecodeRoundTrip : Prop :=
  ∀ (k : Code) (i : Instr), decode k = .ok i → encode i = k ∧ i.wellFormed = true

/-! ## Reset -/

/-- 10_state.md R40: every piece of state after reset, for every capacity; no byte of either RAM is given a value
(each reads as a free value, whatever it is). -/
def Obligations.ResetValues : Prop :=
  ∀ c : Config,
    (State.resetWith c).cmd = 0 ∧ (State.resetWith c).status.word = 0 ∧ (State.resetWith c).srcOff = 0 ∧
    (State.resetWith c).srcLen = 0 ∧ (State.resetWith c).dstLen = 0 ∧ (State.resetWith c).rd = 0 ∧
    (State.resetWith c).wr = 0 ∧ (State.resetWith c).ctrl = 0 ∧ (State.resetWith c).cnt = 0 ∧
    (State.resetWith c).repv = 0 ∧ (State.resetWith c).fsm = .idle ∧
    (∀ a, (State.resetWith c).srcByte a = Config.srcAfterReset (State.resetWith c).ramEpoch a ∧
      (State.resetWith c).dstByte a = Config.dstAfterReset (State.resetWith c).ramEpoch a)

/-- 70_reset_and_hazards.md R290, R291: the reset input, asserted in any state, BUSY = 1 among them, leaves every
register 0 and the engine idle, with no error record and no byte of either RAM kept: each reads as a free value of
another index than before. That the host's own operations and record stay is the model's choice (log 18). -/
def Obligations.ResetAbortsAndClears : Prop :=
  ∀ (s : State) (rest : List Turn), s.agenda = .reset :: rest →
    ∃ t, step s = .next t ∧ t.cmd = 0 ∧ t.status.word = 0 ∧ t.srcOff = 0 ∧ t.srcLen = 0 ∧ t.dstLen = 0 ∧
      t.rd = 0 ∧ t.wr = 0 ∧ t.ctrl = 0 ∧ t.cnt = 0 ∧ t.repv = 0 ∧ t.fsm = .idle ∧
      (∀ a, t.srcByte a = Config.srcAfterReset t.ramEpoch a ∧ t.dstByte a = Config.dstAfterReset t.ramEpoch a) ∧
      t.ramEpoch ≠ s.ramEpoch ∧ t.config = s.config ∧
      t.agenda = rest ∧ t.received = s.received

/-- The invariant holds after reset, for every capacity. -/
def Obligations.ResetMeetsInvariant : Prop := ∀ c : Config, (State.resetWith c).Inv

/-! ## The invariant and the safety of the engine -/

/-- Headline: every step from a state that meets the invariant answers one that meets it. Its parts are
10_state.md R22, R23, R25, R27, R30, R31, R34 and the canonical form of the memories (log 2). -/
def Obligations.StepKeepsInvariant : Prop :=
  ∀ s t : State, s.Inv → step s = .next t → t.Inv

/-- 20_memory.md R65: no engine access falls outside SRC or DST. From a state that meets the invariant, the only
fault a step can end in is a host access outside its window. -/
def Obligations.EngineStaysInsideTheRams : Prop :=
  ∀ s : State, s.Inv → (∀ f, microStep s ≠ .fault f) ∧ (∀ f, step s = .fault f → f = .hostOutsideWindow)

/-- 42_packbits.md R198: while BUSY = 1 the engine has a step, and it changes the state: no state is stuck. -/
def Obligations.BusyEngineAlwaysMoves : Prop :=
  ∀ s : State, s.Inv → s.status.busy = true → ∃ t, microStep s = .next t ∧ t ≠ s

/-- 40_command_interface.md R139: only the host's write to CMD starts engine work, and the engine runs no command on its
own. An idle engine with nothing from the host, or with an explicit turn, stays as it is; and from an idle state that
meets the invariant, whatever the agenda holds, the engine is not idle after a step only where the step was a host
write of a legal word to CMD, by its window or by its address REG_BASE in the host's map. That such steps exist and
what they run is the model's choice: a step with an empty agenda is the engine's (log 7), and a command that is run
whole, or a pseudo-command's, is idle again at the end of its step, so its engine work is not seen here (log 6). -/
def Obligations.OnlyCmdWritesStartTheEngine : Prop :=
  (∀ s : State, s.fsm = .idle → (s.agenda = [] → step s = .next s) ∧
    (∀ rest, s.agenda = .engine :: rest → step s = .next { s with agenda := rest })) ∧
  (∀ s t : State, s.Inv → s.fsm = .idle → step s = .next t → t.fsm ≠ .idle →
    ∃ w i rest, (s.agenda = .writeReg 0x00 4 w :: rest ∨ s.agenda = .writeAt s.config.regBase 4 w :: rest) ∧
      decodeCommand w = .ok i)

/-- 10_state.md R23, R34: from a state that meets the invariant a micro-step moves RD by 0 or 1 and WR by 0, 1 or 4,
as natural numbers: no cursor wraps. -/
def Obligations.CursorsNeverWrap : Prop :=
  ∀ s t : State, s.Inv → microStep s = .next t →
    (t.rd.toNat = s.rd.toNat ∨ t.rd.toNat = s.rd.toNat + 1) ∧
    (t.wr.toNat = s.wr.toNat ∨ t.wr.toNat = s.wr.toNat + (if s.fsm = .filling then 1 else 4))

/-! ## The command interface -/

/-- 40_command_interface.md R135, R136: an accepted host write of a legal word whose ranges hold starts its command,
in one step and with exactly these changes. -/
def Obligations.CmdWriteStartsCommand : Prop :=
  ∀ (s : State) (w : Word) (i : Instr) (rest : List Turn),
    s.agenda = .writeReg 0x00 4 w :: rest → s.status.busy = false → decodeCommand w = .ok i →
    s.dstLen.toNat ≤ s.config.dstCap.val →
    (opField w = 1 ∨ s.srcOff.toNat + s.srcLen.toNat ≤ s.config.srcCap.val) →
    step s = .next { s with
      agenda := rest, cmd := w, rd := 0
      status := { busy := true, done := false, err := false, errcode := 0 }
      wr := if opField w = 1 then 0 else (slotField w).setWidth 32
      fsm := if opField w = 1 then .filling else if opField w = 2 then .raw
        else if opField w = 3 then .awaitCtrl
        else if modeField w = .raw then .raw else .awaitCtrl }

/-- 60_exceptions.md R263: an accepted host write of a word that is illegal, or whose ranges do not hold, ends at
once with IllegalCommand: ERR = 1, ERRCODE = 3, RD = 0, WR = 0, CMD holds the word, BUSY stays 0, no RAM byte and no
other register changes. -/
def Obligations.CmdWriteRejectsIllegal : Prop :=
  ∀ (s : State) (w : Word) (rest : List Turn),
    s.agenda = .writeReg 0x00 4 w :: rest → s.status.busy = false →
    ((∀ r ∈ commandRows, r.selects w = false) ∨ s.config.dstCap.val < s.dstLen.toNat ∨
      (opField w ≠ 1 ∧ s.config.srcCap.val < s.srcOff.toNat + s.srcLen.toNat)) →
    step s = .next { s with
      agenda := rest, cmd := w, rd := 0, wr := 0
      status := { busy := false, done := false, err := true, errcode := 3 } }

/-- 40_command_interface.md R140: while BUSY = 1 a host write to CMD, SRC_OFF, SRC_LEN or DST_LEN changes nothing
(the agenda apart, from which it is taken), and a write to STATUS has no effect in a state that meets the
invariant. -/
def Obligations.RegisterWritesIgnoredWhileBusy : Prop :=
  ∀ (s : State) (o : Nat) (v : Word) (rest : List Turn),
    s.agenda = .writeReg o 4 v :: rest → s.status.busy = true →
    (o = 0x00 ∨ o = 0x08 ∨ o = 0x0C ∨ o = 0x10 ∨ (o = 0x04 ∧ s.Inv)) →
    step s = .next { s with agenda := rest }

/-- 40_command_interface.md R131: while BUSY = 0 a host write of v to SRC_OFF, SRC_LEN or DST_LEN stores v, whatever
v is, and nothing else changes; while BUSY = 1 it is ignored. -/
def Obligations.LengthRegistersTakeAnyValue : Prop :=
  ∀ (s : State) (v : Word) (rest : List Turn),
    (s.agenda = .writeReg 0x08 4 v :: rest →
      step s = .next { s with agenda := rest, srcOff := if s.status.busy then s.srcOff else v }) ∧
    (s.agenda = .writeReg 0x0C 4 v :: rest →
      step s = .next { s with agenda := rest, srcLen := if s.status.busy then s.srcLen else v }) ∧
    (s.agenda = .writeReg 0x10 4 v :: rest →
      step s = .next { s with agenda := rest, dstLen := if s.status.busy then s.dstLen else v })

/-- 40_command_interface.md R142: a host write of v to STATUS clears DONE where v[1] = 1 and ERR and ERRCODE where
v[2] = 1; all other bits of v are ignored and nothing else changes. This is the return from an error. -/
def Obligations.StatusWriteAcknowledges : Prop :=
  ∀ (s : State) (v : Word) (rest : List Turn), s.agenda = .writeReg 0x04 4 v :: rest →
    step s = .next { s with
      agenda := rest
      status := {
        busy := s.status.busy
        done := s.status.done && !v.getLsbD 1
        err := s.status.err && !v.getLsbD 2
        errcode := if v.getLsbD 2 then 0 else s.status.errcode } }

/-- 40_command_interface.md R143: host writes to RD_CUR, WR_CUR and offset 0x1C are ignored at all times. -/
def Obligations.CursorWritesIgnored : Prop :=
  ∀ (s : State) (o : Nat) (v : Word) (rest : List Turn),
    s.agenda = .writeReg o 4 v :: rest → (o = 0x14 ∨ o = 0x18 ∨ o = 0x1C) → step s = .next { s with agenda := rest }

/-- 40_command_interface.md R132, R141 and 10_state.md R35, R36: host register reads. CMD, SRC_OFF, SRC_LEN and DST_LEN
return their values, STATUS returns (24'b0, ERRCODE, 1'b0, ERR, DONE, BUSY), which while BUSY = 1 is 0x00000001 in a
state that meets the invariant, and offset 0x1C returns 0, at all times. RD_CUR and WR_CUR return RD and WR while
BUSY = 0 and a value drawn freshly, whatever it is, while BUSY = 1. No read changes anything of the block. -/
def Obligations.RegisterReads : Prop :=
  ∀ (s : State) (o : Nat) (rest : List Turn), s.agenda = .readReg o 4 :: rest →
    (∀ v,
      ((o = 0x00 ∧ v = s.cmd) ∨
        (o = 0x04 ∧ v.extractLsb' 8 24 = 0 ∧ v.extractLsb' 4 4 = s.status.errcode ∧ v.getLsbD 3 = false ∧
          v.getLsbD 2 = s.status.err ∧ v.getLsbD 1 = s.status.done ∧ v.getLsbD 0 = s.status.busy) ∨
        (o = 0x04 ∧ s.status.busy = true ∧ s.Inv ∧ v = 0x00000001) ∨
        (o = 0x08 ∧ v = s.srcOff) ∨ (o = 0x0C ∧ v = s.srcLen) ∨ (o = 0x10 ∧ v = s.dstLen) ∨
        (o = 0x14 ∧ s.status.busy = false ∧ v = s.rd) ∨ (o = 0x18 ∧ s.status.busy = false ∧ v = s.wr) ∨
        (o = 0x1C ∧ v = 0)) →
      step s = .next { s with agenda := rest, received := s.received ++ [.reg o v] }) ∧
    (s.status.busy = true → (o = 0x14 ∨ o = 0x18) →
      step s = .next { s with
        agenda := rest, draws := s.draws + 1
        received := s.received ++ [.reg o (Config.freeRead s.draws)] })

/-! ## Host access to the RAMs -/

/-- 20_memory.md R62: a host write of 1, 2 or 4 bytes, aligned and inside the RAM, puts the value's bytes at
consecutive addresses, least significant first; every other byte of both RAMs and every register is unchanged.
20_memory.md R67: an access at an address of the host's map that lies in one window (REG, 32 bytes at REG_BASE; SRC,
SRC_CAP bytes at SRC_BASE; DST, DST_CAP bytes at DST_BASE) is the access of that window at the address's distance from
its base, for every read and every write. That an address in no window faults is the model's choice (log 11). -/
def Obligations.HostRamWritesAreLittleEndian : Prop :=
  (∀ (s : State) (ram : Ram) (a width : Nat) (v : Word) (rest : List Turn),
    s.agenda = .writeRam ram a width v :: rest → s.status.busy = false →
    (width = 1 ∨ width = 2 ∨ width = 4) → a % width = 0 → a + width ≤ s.ramCap ram →
    ∃ t, step s = .next t ∧
      (∀ k, k < width → t.ramByte ram (a + k) = v.extractLsb' (8 * k) 8) ∧
      (∀ r b, (r ≠ ram ∨ b < a ∨ a + width ≤ b) → t.ramByte r b = s.ramByte r b) ∧
      { t with src := s.src, dst := s.dst } = { s with agenda := rest }) ∧
  (∀ (s : State) (x width : Nat) (v : Word) (rest : List Turn),
    let inReg := s.config.regBase ≤ x ∧ x < s.config.regBase + 32
    let inSrc := s.config.srcBase ≤ x ∧ x < s.config.srcBase + s.config.srcCap.val
    let inDst := s.config.dstBase ≤ x ∧ x < s.config.dstBase + s.config.dstCap.val
    let instead := fun t : Turn => step { s with agenda := t :: rest }
    (s.agenda = .readAt x width :: rest →
      (inReg → ¬inSrc → ¬inDst → step s = instead (.readReg (x - s.config.regBase) width)) ∧
      (¬inReg → inSrc → ¬inDst → step s = instead (.readRam .src (x - s.config.srcBase) width)) ∧
      (¬inReg → ¬inSrc → inDst → step s = instead (.readRam .dst (x - s.config.dstBase) width)) ∧
      (¬inReg → ¬inSrc → ¬inDst → step s = .fault .hostOutsideWindow)) ∧
    (s.agenda = .writeAt x width v :: rest →
      (inReg → ¬inSrc → ¬inDst → step s = instead (.writeReg (x - s.config.regBase) width v)) ∧
      (¬inReg → inSrc → ¬inDst → step s = instead (.writeRam .src (x - s.config.srcBase) width v)) ∧
      (¬inReg → ¬inSrc → inDst → step s = instead (.writeRam .dst (x - s.config.dstBase) width v)) ∧
      (¬inReg → ¬inSrc → ¬inDst → step s = .fault .hostOutsideWindow)))

/-- Host RAM reads while BUSY = 0. 20_memory.md R63: a 4-byte read of DST at 4·p returns (slot3, slot2, slot1, slot0)
of pixel p. R62, R69: every read of 1, 2 or 4 bytes of either RAM, aligned and inside it, returns the bytes it holds,
the lowest address in the least significant byte and the bytes above the width 0, and changes nothing of the block.
That a DST read is exact as soon as BUSY = 0, before a STATUS read has returned BUSY = 0, is the model's choice
(log 23). -/
def Obligations.PixelWordReadsSlotsInOrder : Prop :=
  (∀ (s : State) (p : Nat) (rest : List Turn),
    s.agenda = .readRam .dst (4 * p) 4 :: rest → s.status.busy = false → 4 * p + 4 ≤ s.config.dstCap.val →
    step s = .next { s with
      agenda := rest
      received := s.received ++ [.ram .dst (4 * p) 4
        (s.dstByte (4 * p + 3) ++ s.dstByte (4 * p + 2) ++ s.dstByte (4 * p + 1) ++ s.dstByte (4 * p))] }) ∧
  (∀ (s : State) (ram : Ram) (a width : Nat) (rest : List Turn),
    s.agenda = .readRam ram a width :: rest → s.status.busy = false →
    (width = 1 ∨ width = 2 ∨ width = 4) → a % width = 0 → a + width ≤ s.ramCap ram →
    ∃ v : Word,
      step s = .next { s with agenda := rest, received := s.received ++ [.ram ram a width v] } ∧
      (∀ k, k < width → v.extractLsb' (8 * k) 8 = s.ramByte ram (a + k)) ∧ v.toNat < 2 ^ (8 * width))

/-- 70_reset_and_hazards.md R304 with 20_memory.md R62: while BUSY = 1 a host read of SRC of 1, 2 or 4 bytes, aligned
and inside it, returns the bytes SRC holds, little-endian, and one of DST a value drawn freshly, whatever it is (the low
bytes of the free value of this draw, log 4); the bytes above the width are 0, neither read is refused and neither
changes the block. -/
def Obligations.BusyRamReads : Prop :=
  ∀ (s : State) (a width : Nat) (rest : List Turn), s.status.busy = true →
    (width = 1 ∨ width = 2 ∨ width = 4) → a % width = 0 →
    (s.agenda = .readRam .src a width :: rest → a + width ≤ s.config.srcCap.val →
      ∃ v : Word,
        step s = .next { s with agenda := rest, received := s.received ++ [.ram .src a width v] } ∧
        (∀ k, k < width → v.extractLsb' (8 * k) 8 = s.srcByte (a + k)) ∧ v.toNat < 2 ^ (8 * width)) ∧
    (s.agenda = .readRam .dst a width :: rest → a + width ≤ s.config.dstCap.val →
      ∃ v : Word,
        step s = .next { s with
          agenda := rest, draws := s.draws + 1, received := s.received ++ [.ram .dst a width v] } ∧
        (∀ k, k < width → v.extractLsb' (8 * k) 8 = (Config.freeRead s.draws).extractLsb' (8 * k) 8) ∧
        v.toNat < 2 ^ (8 * width))

/-- 70_reset_and_hazards.md R302, R303, R306 with 00_scope.md R12: the host duties. A write to SRC or DST while
BUSY = 1, and every access of the wrong width or alignment, is refused. That a width of 0 is refused too, and that a
malformed access is named before an access past the window and before BUSY, is the model's choice (log 10). -/
def Obligations.HostDutiesAreRefused : Prop :=
  (∀ (s : State) (ram : Ram) (a width : Nat) (v : Word) (rest : List Turn),
    s.agenda = .writeRam ram a width v :: rest → s.status.busy = true →
    (width = 1 ∨ width = 2 ∨ width = 4) → a % width = 0 → a + width ≤ s.ramCap ram →
    step s = .refused (busyRefusal ram)) ∧
  (∀ (s : State) (ram : Ram) (a width : Nat) (v : Word) (rest : List Turn),
    (s.agenda = .writeRam ram a width v :: rest ∨ s.agenda = .readRam ram a width :: rest) →
    (width ≠ 1 ∧ width ≠ 2 ∧ width ≠ 4 ∨ a % width ≠ 0) →
    step s = .refused .hostAccessMalformed) ∧
  (∀ (s : State) (o width : Nat) (v : Word) (rest : List Turn),
    (s.agenda = .writeReg o width v :: rest ∨ s.agenda = .readReg o width :: rest) →
    (width ≠ 4 ∨ o % 4 ≠ 0) →
    step s = .refused .hostAccessMalformed)

/-- 42_packbits.md R193 with 40_command_interface.md R140, R141: no host read and no host register write made while
BUSY = 1, by window or by address, that answers a next state changes anything of the block: registers, engine or RAMs.
A host write of a RAM answers none then (HostDutiesAreRefused). -/
def Obligations.BusyHostAccessesLeaveTheBlock : Prop :=
  ∀ (s t : State) (h : Turn) (rest : List Turn), s.Inv → s.status.busy = true → s.agenda = h :: rest →
    ((∃ o w, h = .readReg o w) ∨ (∃ o w v, h = .writeReg o w v) ∨ (∃ r a w, h = .readRam r a w) ∨
      (∃ a w, h = .readAt a w) ∨ (∃ a w v, h = .writeAt a w v) ∨ (∃ w, h = .command w)) →
    step s = .next t →
    { t with draws := s.draws, received := s.received } = { s with agenda := rest }

/-! ## A step runs the decoded instruction -/

/-- A step runs exec of the decoded instruction: of a CMD write run whole (42_packbits.md R197), of the control byte
at RD while a PackBits channel runs and the host waits or has nothing to do (R183), and of the raw byte at RD while a
raw channel runs (41_raw_unpacker.md R163). Nothing is added around exec but that the CMD write leaves the agenda. How
much one step runs is the model's choice: the CMD write with its whole command (log 6), and with an empty agenda or a
WAIT the whole stream element (log 7), whose exec does not fetch its own first byte (log 19). -/
def Obligations.StepRunsTheDecodedInstruction : Prop :=
  (∀ (s : State) (w : Word) (i : Instr) (rest : List Turn),
    s.agenda = .command w :: rest → s.status.busy = false → decode (.cmd32 w) = .ok i →
    step s = exec i { s with agenda := rest }) ∧
  (∀ (s : State) (i : Instr),
    (s.agenda = [] ∨ (s.status.busy = true ∧ ∃ rest, s.agenda = .wait :: rest)) →
    s.rd.toNat < s.srcLen.toNat → s.srcOff.toNat + s.rd.toNat < s.config.srcCap.val →
    (s.fsm = .awaitCtrl → decode (.pb8 (s.srcByte (s.srcOff.toNat + s.rd.toNat))) = .ok i → step s = exec i s) ∧
    (s.fsm = .raw → decode (.raw8 (s.srcByte (s.srcOff.toNat + s.rd.toNat))) = .ok i → step s = exec i s))

/-- 30_encoding.md R105: WAIT ends at BUSY = 0 with nothing else changed; while BUSY = 1 it stays and the engine moves
as it would with nothing from the host (log 8: that the engine moves rests on the fairness of
70_reset_and_hazards.md R308). -/
def Obligations.WaitPollsBusy : Prop :=
  ∀ (s : State) (rest : List Turn), s.agenda = .wait :: rest →
    (s.status.busy = false → step s = .next { s with agenda := rest }) ∧
    (s.status.busy = true → step s = engineTurn s)

/-- 40_command_interface.md R134, R140, 60_exceptions.md R263: what turns a command away. While BUSY = 1 its exec changes
nothing; while BUSY = 0 and the engine is idle (BUSY = 0 exactly when it is, 10_state.md R27), if its ranges do not hold
(FILL checks DST_LEN alone), it ends with IllegalCommand and touches no RAM byte. -/
def Obligations.CommandsTurnedAway : Prop :=
  ∀ (s : State) (i : Instr), i.format = .cmd32 →
    (s.status.busy = true → exec i s = .next s) ∧
    (s.status.busy = false → s.fsm = .idle →
      (s.config.dstCap.val < s.dstLen.toNat ∨
        (modeOf i ≠ none ∧ s.config.srcCap.val < s.srcOff.toNat + s.srcLen.toNat)) →
      exec i s = .next { s with
        cmd := commandWord i, rd := 0, wr := 0
        status := { busy := false, done := false, err := true, errcode := 3 } })

/-! ## FILL -/

/-- 40_command_interface.md R145: FILL #v completes wherever DST_LEN ≤ DST_CAP, whatever SRC_OFF and SRC_LEN hold,
writes v to every byte of the output buffer and to no other, and ends with DONE, RD = 0 and WR = DST_LEN; everything
else is unchanged. Where DST_LEN > DST_CAP and the engine is idle, as it is whenever BUSY = 0 (10_state.md R27), it ends
with IllegalCommand and writes nothing; a word with OP = 1 and a reserved or unused field that is not zero is not
FILL's and is rejected. -/
def Obligations.FillWritesTheWholeBuffer : Prop :=
  (∀ (v : Byte) (s : State), s.status.busy = false →
    (s.dstLen.toNat ≤ s.config.dstCap.val →
      ∃ t, exec (.fill v) s = .next t ∧
        (∀ a, t.dstByte a = if a < s.dstLen.toNat then v else s.dstByte a) ∧
        t.cmd = fillWord v ∧ t.status = { busy := false, done := true, err := false, errcode := 0 } ∧
        t.rd = 0 ∧ t.wr = s.dstLen ∧ t.fsm = .idle ∧
        t.ctrl = s.ctrl ∧ t.cnt = s.cnt ∧ t.repv = s.repv ∧ s.sameSurroundings t) ∧
    (s.fsm = .idle → s.config.dstCap.val < s.dstLen.toNat →
      exec (.fill v) s = .next { s with
        cmd := fillWord v, rd := 0, wr := 0
        status := { busy := false, done := false, err := true, errcode := 3 } })) ∧
  (∀ w : Word, opField w = 1 → (w.extractLsb' 4 4 ≠ 0 ∨ w.extractLsb' 16 16 ≠ 0) →
    decodeCommand w = .error .fieldNotZero)

/-! ## UNPACK.RAW -/

/-- 41_raw_unpacker.md R160, R164, R165: with f the least index whose write position is not below DST_LEN,
UNPACK.RAW s completes wherever its ranges hold. If f ≥ SRC_LEN it copies every byte i to s + 4·i and ends with DONE,
RD = L, WR = s + 4·L; else it copies the bytes before f and ends with BufferTooSmall, RD = f + 1, WR = s + 4·f. No
other byte of DST and nothing else changes. -/
def Obligations.UnpackRawCopiesAtStrideFour : Prop :=
  ∀ (slot : Slot) (s : State) (f : Nat), s.status.busy = false → s.dstLen.toNat ≤ s.config.dstCap.val →
    s.srcOff.toNat + s.srcLen.toNat ≤ s.config.srcCap.val →
    s.dstLen.toNat ≤ slot.toNat + 4 * f → (∀ i, i < f → slot.toNat + 4 * i < s.dstLen.toNat) →
    ∃ t, exec (.unpackRaw slot) s = .next t ∧
      (∀ i, i < min f s.srcLen.toNat → t.dstByte (slot.toNat + 4 * i) = s.srcByte (s.srcOff.toNat + i)) ∧
      (∀ a, (∀ i, i < min f s.srcLen.toNat → a ≠ slot.toNat + 4 * i) → t.dstByte a = s.dstByte a) ∧
      t.status = (if s.srcLen.toNat ≤ f then { busy := false, done := true, err := false, errcode := 0 }
        else { busy := false, done := false, err := true, errcode := 1 }) ∧
      t.rd.toNat = (if s.srcLen.toNat ≤ f then s.srcLen.toNat else f + 1) ∧
      t.wr.toNat = slot.toNat + 4 * min f s.srcLen.toNat ∧
      t.cmd = unpackRawWord slot ∧ t.fsm = .idle ∧ t.ctrl = s.ctrl ∧ t.cnt = s.cnt ∧ t.repv = s.repv ∧
      s.sameSurroundings t

/-- 41_raw_unpacker.md R162: for L ≥ 1, UNPACK.RAW succeeds exactly when DST_LEN ≥ s + (L - 1)·4 + 1; for L = 0 it
succeeds for every DST_LEN. -/
def Obligations.UnpackRawCapacity : Prop :=
  ∀ (slot : Slot) (s : State), s.status.busy = false → s.dstLen.toNat ≤ s.config.dstCap.val →
    s.srcOff.toNat + s.srcLen.toNat ≤ s.config.srcCap.val →
    ∃ t, exec (.unpackRaw slot) s = .next t ∧
      (t.status.done = true ↔
        (s.srcLen.toNat = 0 ∨ slot.toNat + (s.srcLen.toNat - 1) * 4 + 1 ≤ s.dstLen.toNat)) ∧
      (t.status.done = false → t.status.err = true ∧ t.status.errcode = 1)

/-- 40_command_interface.md R146 and 41_raw_unpacker.md R163: the micro-steps of FILL and of the Raw Unpacker. -/
def Obligations.FillAndRawMicroSteps : Prop :=
  (∀ s : State, s.fsm = .filling → s.dstLen.toNat ≤ s.config.dstCap.val →
    (s.wr = s.dstLen →
      microStep s = .next { s with fsm := .idle, status := { s.status with busy := false, done := true } }) ∧
    (s.wr.toNat < s.dstLen.toNat →
      microStep s = .next { s with
        dst := s.dst.write s.wr.toNat (s.cmd.extractLsb' 8 8), wr := s.wr + 1 })) ∧
  (∀ s : State, s.fsm = .raw → s.dstLen.toNat ≤ s.config.dstCap.val →
    s.srcOff.toNat + s.srcLen.toNat ≤ s.config.srcCap.val →
    (s.rd = s.srcLen →
      microStep s = .next { s with fsm := .idle, status := { s.status with busy := false, done := true } }) ∧
    (s.rd.toNat < s.srcLen.toNat → s.dstLen.toNat ≤ s.wr.toNat →
      microStep s = .next { s with
        rd := s.rd + 1, fsm := .idle
        status := { busy := false, done := false, err := true, errcode := 1 } }) ∧
    (s.rd.toNat < s.srcLen.toNat → s.wr.toNat < s.dstLen.toNat →
      microStep s = .next { s with
        rd := s.rd + 1, wr := s.wr + 4
        dst := s.dst.write s.wr.toNat (s.srcByte (s.srcOff.toNat + s.rd.toNat)) }))

/-! ## UNPACK.PB -/

/-- Refinement: each channel command (UNPACK.RAW s, UNPACK.PB s, DISPATCH s RAW, DISPATCH s PB) completes
wherever its ranges hold, and its end is the one that the list of output bytes of its channel gives
(41_raw_unpacker.md R160, 42_packbits.md R181, 43_dispatcher.md R220, 60_exceptions.md R266, R267): the output bytes
below DST_LEN stand at s + 4·k, every other byte of DST is unchanged, and STATUS, RD and WR are those of the end. CTRL,
CNT and REPV may change in the PackBits mode; nothing else does. -/
def Obligations.ChannelCommandsWriteTheirOutput : Prop :=
  ∀ (i : Instr) (m : Mode) (s : State), modeOf i = some m → s.status.busy = false →
    s.dstLen.toNat ≤ s.config.dstCap.val → s.srcOff.toNat + s.srcLen.toNat ≤ s.config.srcCap.val →
    ∃ t, exec i s = .next t ∧
      (let o := channelOutput m s.channelBytes
       let n := writtenCount o (slotOf i) s.dstLen.toNat
       (∀ a, t.dstByte a = afterWrites o (slotOf i) n s.dstByte a) ∧
       t.status = channelStatus o (slotOf i) s.dstLen.toNat ∧
       t.rd.toNat = channelRd o (slotOf i) s.dstLen.toNat s.srcLen.toNat ∧
       t.wr.toNat = slotOf i + 4 * n) ∧
      t.cmd = commandWord i ∧ t.fsm = .idle ∧ s.sameSurroundings t ∧
      (m = .raw → t.ctrl = s.ctrl ∧ t.cnt = s.cnt ∧ t.repv = s.repv)

/-- 42_packbits.md R192: of a channel that ends at a packet boundary and has T output bytes (0 for PB.NOP, c + 1 for
PB.LIT and 257 - c for PB.REP), the decode succeeds exactly when T = 0 or s + 4·(T - 1) < DST_LEN. On success the k-th
output byte stands at s + 4·k, no other byte is written, RD = L and WR = s + 4·T. On failure it raises BufferTooSmall
with WR = s + 4·f, f the least k with s + 4·k ≥ DST_LEN. -/
def Obligations.CompleteStreamSucceedsExactlyWhenItFits : Prop :=
  ∀ (slot : Slot) (s : State), s.status.busy = false → s.dstLen.toNat ≤ s.config.dstCap.val →
    s.srcOff.toNat + s.srcLen.toNat ≤ s.config.srcCap.val →
    (channelOutput .packBits s.channelBytes).truncated = false →
    ∃ t, exec (.unpackPb slot) s = .next t ∧
      (let outs := (channelOutput .packBits s.channelBytes).writes.map Prod.fst
       (t.status.done = true ↔ (outs.length = 0 ∨ slot.toNat + 4 * (outs.length - 1) < s.dstLen.toNat)) ∧
       (t.status.done = true →
         (∀ k, k < outs.length → outs[k]? = some (t.dstByte (slot.toNat + 4 * k))) ∧
         (∀ a, (∀ k, k < outs.length → a ≠ slot.toNat + 4 * k) → t.dstByte a = s.dstByte a) ∧
         t.rd = s.srcLen ∧ t.wr.toNat = slot.toNat + 4 * outs.length) ∧
       (t.status.done = false →
         t.status.err = true ∧ t.status.errcode = 1 ∧
         ∃ f, t.wr.toNat = slot.toNat + 4 * f ∧ s.dstLen.toNat ≤ slot.toNat + 4 * f ∧
           ∀ k, k < f → slot.toNat + 4 * k < s.dstLen.toNat))

/-- 42_packbits.md R196: the PackBits decoder's micro-steps, one clause a row of the rule's table. -/
def Obligations.PackBitsMicroSteps : Prop :=
  ∀ s : State, s.dstLen.toNat ≤ s.config.dstCap.val → s.srcOff.toNat + s.srcLen.toNat ≤ s.config.srcCap.val →
    let c := s.srcByte (s.srcOff.toNat + s.rd.toNat)
    let tooSmall : Status := { busy := false, done := false, err := true, errcode := 1 }
    let truncated : Status := { busy := false, done := false, err := true, errcode := 2 }
    (s.fsm = .awaitCtrl → s.rd = s.srcLen →
      microStep s = .next { s with fsm := .idle, status := { s.status with busy := false, done := true } }) ∧
    (s.fsm = .awaitCtrl → s.rd.toNat < s.srcLen.toNat → c = 0x80 →
      microStep s = .next { s with ctrl := c, rd := s.rd + 1, fsm := .emitNoop }) ∧
    (s.fsm = .awaitCtrl → s.rd.toNat < s.srcLen.toNat → c.toNat < 0x80 →
      microStep s = .next { s with ctrl := c, rd := s.rd + 1, cnt := c + 1, fsm := .lit }) ∧
    (s.fsm = .awaitCtrl → s.rd.toNat < s.srcLen.toNat → 0x80 < c.toNat →
      microStep s = .next { s with
        ctrl := c, rd := s.rd + 1, cnt := BitVec.ofNat 8 (257 - c.toNat), fsm := .repFetch }) ∧
    (s.fsm = .emitNoop → microStep s = .next { s with fsm := .awaitCtrl }) ∧
    (s.fsm = .lit → s.rd = s.srcLen → microStep s = .next { s with fsm := .idle, status := truncated }) ∧
    (s.fsm = .lit → s.rd.toNat < s.srcLen.toNat → s.dstLen.toNat ≤ s.wr.toNat →
      microStep s = .next { s with rd := s.rd + 1, fsm := .idle, status := tooSmall }) ∧
    (s.fsm = .lit → s.rd.toNat < s.srcLen.toNat → s.wr.toNat < s.dstLen.toNat →
      microStep s = .next { s with
        dst := s.dst.write s.wr.toNat c, rd := s.rd + 1, wr := s.wr + 4, cnt := s.cnt - 1
        fsm := if s.cnt - 1 = 0 then .awaitCtrl else .lit }) ∧
    (s.fsm = .repFetch → s.rd = s.srcLen → microStep s = .next { s with fsm := .idle, status := truncated }) ∧
    (s.fsm = .repFetch → s.rd.toNat < s.srcLen.toNat →
      microStep s = .next { s with repv := c, rd := s.rd + 1, fsm := .repEmit }) ∧
    (s.fsm = .repEmit → s.dstLen.toNat ≤ s.wr.toNat →
      microStep s = .next { s with fsm := .idle, status := tooSmall }) ∧
    (s.fsm = .repEmit → s.wr.toNat < s.dstLen.toNat →
      microStep s = .next { s with
        dst := s.dst.write s.wr.toNat s.repv, wr := s.wr + 4, cnt := s.cnt - 1
        fsm := if s.cnt - 1 = 0 then .awaitCtrl else .repEmit })

/-! ## DISPATCH -/

/-- 43_dispatcher.md R221: DISPATCH with m = 0 has exactly the end of UNPACK.RAW s, and with m = 1 exactly that of
UNPACK.PB s, whether the ranges hold or not, from every idle state; the two differ only in the word CMD reads back. -/
def Obligations.DispatchEqualsTheRoutedCommand : Prop :=
  ∀ (slot : Slot) (s : State), s.status.busy = false → s.fsm = .idle →
    (∃ t, exec (.unpackRaw slot) s = .next t ∧
      exec (.dispatch slot .raw) s = .next { t with cmd := dispatchWord slot .raw }) ∧
    (∃ t, exec (.unpackPb slot) s = .next t ∧
      exec (.dispatch slot .packBits) s = .next { t with cmd := dispatchWord slot .packBits })

/-! ## All commands -/

/-- 40_command_interface.md R138, 42_packbits.md R198: a started FILL ends within DST_LEN + 1 micro-steps and a started
channel command within 2·L + ⌈M/4⌉ + 2. -/
def Obligations.CommandsEndWithinTheirBound : Prop :=
  ∀ (s : State) (w : Word) (i : Instr), s.status.busy = false → decodeCommand w = .ok i → s.rangesOk i = true →
    ∃ t, runEngine commandEnded
        (if modeOf i = none then s.dstLen.toNat + 1
          else 2 * s.srcLen.toNat + (s.dstLen.toNat + 3) / 4 + 2) (acceptCommand w s) = .next t ∧
      t.fsm = .idle ∧ t.status.busy = false ∧ (t.status.done = !t.status.err)

/-- Equivalence (42_packbits.md R197): the CMD write followed by enough single micro-steps reaches exactly
the state that the whole command reaches in one step, in every idle state and whether the ranges hold or not. -/
def Obligations.MicroStepsReachTheWholeCommand : Prop :=
  ∀ (s : State) (w : Word) (i : Instr) (n : Nat), s.status.busy = false → s.fsm = .idle →
    decode (.cmd32 w) = .ok i → commandBound (acceptCommand w s) ≤ n →
    Host.Core.run Sys2Proof.core (n + 1)
        { s with agenda := .writeReg 0x00 4 w :: List.replicate n .engine } = exec i { s with agenda := [] }

/-- 10_state.md R20, 40_command_interface.md R136, 70_reset_and_hazards.md R294: no result depends on what earlier
commands left in CMD, STATUS, RD, WR, CTRL, CNT and REPV: two idle states that agree on the rest end alike. -/
def Obligations.ResultsForgetEarlierCommands : Prop :=
  ∀ (s u : State) (i : Instr), i.format = .cmd32 → s.status.busy = false → u.status.busy = false →
    s.fsm = .idle → u.fsm = .idle → s.config = u.config → s.srcOff = u.srcOff → s.srcLen = u.srcLen → s.dstLen = u.dstLen → s.src = u.src →
    s.dst = u.dst → s.ramEpoch = u.ramEpoch →
    ∃ t v, exec i s = .next t ∧ exec i u = .next v ∧ t.sameVisible v

/-- 20_memory.md R65, 60_exceptions.md R265: a command reads nothing of SRC but its channel's bytes, and nothing of it
at all where it is FILL: with any other contents outside the channel it ends in the same state, SRC apart. The engine is
idle where BUSY = 0 (10_state.md R27). -/
def Obligations.CommandsReadOnlyTheirChannel : Prop :=
  ∀ (i : Instr) (s : State) (m : Memory), i.format = .cmd32 → (s.status.busy = false → s.fsm = .idle) →
    (modeOf i ≠ none → ∀ k, k < s.srcLen.toNat →
      State.srcByte { s with src := m } (s.srcOff.toNat + k) = s.srcByte (s.srcOff.toNat + k)) →
    (∃ t, exec i s = .next t) ∧
      ∀ t, exec i s = .next t → exec i { s with src := m } = .next { t with src := m }

/-- The frame of the four commands: SRC, SRC_OFF, SRC_LEN, DST_LEN and the capacities are unchanged; FILL stores only
below DST_LEN, and a channel command only to its own slot's bytes below DST_LEN (20_memory.md R61, R65); FILL and the
Raw Unpacker leave CTRL, CNT and REPV (10_state.md R21). The engine is idle where BUSY = 0 (R27). -/
def Obligations.CommandFrame : Prop :=
  ∀ (i : Instr) (s t : State), i.format = .cmd32 → (s.status.busy = false → s.fsm = .idle) → exec i s = .next t →
    s.sameSurroundings t ∧
    (∀ a, (s.dstLen.toNat ≤ a ∨ (modeOf i ≠ none ∧ a % 4 ≠ slotOf i)) → t.dstByte a = s.dstByte a) ∧
    (modeOf i ≠ some .packBits → t.ctrl = s.ctrl ∧ t.cnt = s.cnt ∧ t.repv = s.repv)

/-- 20_memory.md R71: two channel commands with distinct slots, each with its own channel of SRC, give the same DST in
either order whenever all of them succeed. -/
def Obligations.DistinctSlotsCommute : Prop :=
  ∀ (i j : Instr) (s t u t' u' : State) (oi li oj lj : Word), modeOf i ≠ none → modeOf j ≠ none →
    slotOf i ≠ slotOf j →
    exec i { s with srcOff := oi, srcLen := li } = .next t →
    exec j { t with srcOff := oj, srcLen := lj } = .next u →
    exec j { s with srcOff := oj, srcLen := lj } = .next t' →
    exec i { t' with srcOff := oi, srcLen := li } = .next u' →
    t.status.done = true → u.status.done = true → t'.status.done = true → u'.status.done = true →
    ∀ a, u.dstByte a = u'.dstByte a

/-- 44_compositor.md R243: with DST_LEN = 4·n the end of a channel does not depend on the slot: two channel commands of
the same mode (UNPACK.RAW, UNPACK.PB or DISPATCH, each in any slot) give the same STATUS. -/
def Obligations.SlotDoesNotChangeTheOutcome : Prop :=
  ∀ (i j : Instr) (m : Mode) (n : Nat) (s : State), modeOf i = some m → modeOf j = some m →
    s.status.busy = false → s.dstLen.toNat = 4 * n →
    s.dstLen.toNat ≤ s.config.dstCap.val → s.srcOff.toNat + s.srcLen.toNat ≤ s.config.srcCap.val →
    ∃ t u, exec i s = .next t ∧ exec j s = .next u ∧ t.status = u.status

/-! ## Stream elements -/

/-- 42_packbits.md R186: PB.NOP consumes its control byte, reads and writes nothing else, and never raises an error. -/
def Obligations.PbNopConsumesOneByte : Prop :=
  ∀ s : State, exec .pbNop s = .next { s with rd := s.rd + 1, ctrl := 0x80, fsm := .awaitCtrl }

/-- 42_packbits.md R187: PB.LIT with its n + 1 bytes present and room for them copies them in order at stride 4 and
awaits the next control byte; nothing else changes. -/
def Obligations.PbLitCopiesItsBytes : Prop :=
  ∀ (n : BitVec 7) (s : State), s.rd.toNat + n.toNat + 2 ≤ s.srcLen.toNat →
    s.srcOff.toNat + s.srcLen.toNat ≤ s.config.srcCap.val →
    s.wr.toNat + 4 * n.toNat < s.dstLen.toNat → s.dstLen.toNat ≤ s.config.dstCap.val →
    ∃ t, exec (.pbLit n) s = .next t ∧
      (∀ k, k ≤ n.toNat → t.dstByte (s.wr.toNat + 4 * k) = s.srcByte (s.srcOff.toNat + s.rd.toNat + 1 + k)) ∧
      (∀ a, (∀ k, k ≤ n.toNat → a ≠ s.wr.toNat + 4 * k) → t.dstByte a = s.dstByte a) ∧
      t.rd.toNat = s.rd.toNat + n.toNat + 2 ∧ t.wr.toNat = s.wr.toNat + 4 * (n.toNat + 1) ∧
      t.ctrl = 0#1 ++ n ∧ t.cnt = 0 ∧ t.fsm = .awaitCtrl ∧
      t.cmd = s.cmd ∧ t.status = s.status ∧ t.repv = s.repv ∧ s.sameSurroundings t

/-- 42_packbits.md R188: a literal run short of input or of room keeps the j bytes it wrote. With j the first data byte
that is missing or has no room, a missing input wins and gives TruncatedInput, RD = SRC_LEN; else BufferTooSmall with
that byte consumed; WR is the position of that byte in either case. -/
def Obligations.PbLitShortages : Prop :=
  ∀ (n : BitVec 7) (s : State) (j : Nat), s.rd.toNat < s.srcLen.toNat → j ≤ n.toNat →
    s.srcOff.toNat + s.srcLen.toNat ≤ s.config.srcCap.val → s.dstLen.toNat ≤ s.config.dstCap.val →
    s.wr.toNat ≤ s.dstLen.toNat + 3 →
    (∀ k, k < j → s.rd.toNat + 1 + k < s.srcLen.toNat ∧ s.wr.toNat + 4 * k < s.dstLen.toNat) →
    (s.srcLen.toNat ≤ s.rd.toNat + 1 + j ∨ s.dstLen.toNat ≤ s.wr.toNat + 4 * j) →
    ∃ t, exec (.pbLit n) s = .next t ∧
      (∀ k, k < j → t.dstByte (s.wr.toNat + 4 * k) = s.srcByte (s.srcOff.toNat + s.rd.toNat + 1 + k)) ∧
      (∀ a, (∀ k, k < j → a ≠ s.wr.toNat + 4 * k) → t.dstByte a = s.dstByte a) ∧
      t.wr.toNat = s.wr.toNat + 4 * j ∧
      (s.srcLen.toNat ≤ s.rd.toNat + 1 + j →
        t.rd = s.srcLen ∧ t.status = { busy := false, done := false, err := true, errcode := 2 }) ∧
      (s.rd.toNat + 1 + j < s.srcLen.toNat →
        t.rd.toNat = s.rd.toNat + 1 + j + 1 ∧
          t.status = { busy := false, done := false, err := true, errcode := 1 }) ∧
      t.fsm = .idle ∧ t.cmd = s.cmd ∧ t.repv = s.repv ∧ s.sameSurroundings t

/-- 42_packbits.md R189: PB.REP with its value byte present and room for its 257 - c writes makes them at stride 4 and
awaits the next control byte; nothing else changes. -/
def Obligations.PbRepWritesItsValue : Prop :=
  ∀ (c : Byte) (s : State), 0x81 ≤ c.toNat → s.rd.toNat + 2 ≤ s.srcLen.toNat →
    s.srcOff.toNat + s.srcLen.toNat ≤ s.config.srcCap.val →
    s.wr.toNat + 4 * (256 - c.toNat) < s.dstLen.toNat → s.dstLen.toNat ≤ s.config.dstCap.val →
    ∃ t, exec (.pbRep c) s = .next t ∧
      (∀ k, k < 257 - c.toNat →
        t.dstByte (s.wr.toNat + 4 * k) = s.srcByte (s.srcOff.toNat + s.rd.toNat + 1)) ∧
      (∀ a, (∀ k, k < 257 - c.toNat → a ≠ s.wr.toNat + 4 * k) → t.dstByte a = s.dstByte a) ∧
      t.rd.toNat = s.rd.toNat + 2 ∧ t.wr.toNat = s.wr.toNat + 4 * (257 - c.toNat) ∧
      t.ctrl = c ∧ t.cnt = 0 ∧ t.repv = s.srcByte (s.srcOff.toNat + s.rd.toNat + 1) ∧ t.fsm = .awaitCtrl ∧
      t.cmd = s.cmd ∧ t.status = s.status ∧ s.sameSurroundings t

/-- 42_packbits.md R190: a repeat run whose value is missing raises TruncatedInput and writes nothing, even when DST is
full; one that reaches DST_LEN after j < k writes keeps them and raises BufferTooSmall with RD just past the value. -/
def Obligations.PbRepShortages : Prop :=
  ∀ (c : Byte) (s : State), 0x81 ≤ c.toNat → s.srcOff.toNat + s.srcLen.toNat ≤ s.config.srcCap.val →
    s.dstLen.toNat ≤ s.config.dstCap.val → s.wr.toNat ≤ s.dstLen.toNat + 3 →
    (s.rd.toNat + 1 = s.srcLen.toNat →
      ∃ t, exec (.pbRep c) s = .next t ∧ t.rd = s.srcLen ∧ t.wr = s.wr ∧ t.dst = s.dst ∧
        t.status = { busy := false, done := false, err := true, errcode := 2 } ∧
        t.fsm = .idle ∧ t.cmd = s.cmd ∧ t.repv = s.repv ∧ s.sameSurroundings t) ∧
    (∀ j, s.rd.toNat + 1 < s.srcLen.toNat → j < 257 - c.toNat →
      (∀ k, k < j → s.wr.toNat + 4 * k < s.dstLen.toNat) → s.dstLen.toNat ≤ s.wr.toNat + 4 * j →
      ∃ t, exec (.pbRep c) s = .next t ∧
        (∀ k, k < j → t.dstByte (s.wr.toNat + 4 * k) = s.srcByte (s.srcOff.toNat + s.rd.toNat + 1)) ∧
        (∀ a, (∀ k, k < j → a ≠ s.wr.toNat + 4 * k) → t.dstByte a = s.dstByte a) ∧
        t.rd.toNat = s.rd.toNat + 2 ∧ t.wr.toNat = s.wr.toNat + 4 * j ∧
        t.status = { busy := false, done := false, err := true, errcode := 1 } ∧
        t.fsm = .idle ∧ t.cmd = s.cmd ∧ t.repv = s.srcByte (s.srcOff.toNat + s.rd.toNat + 1) ∧
        s.sameSurroundings t)

/-- 41_raw_unpacker.md R161: RAW.BYTE is consumed; where WR < DST_LEN it is written there and WR moves by 4, else
BufferTooSmall is raised and nothing is written. Every value of b is data. -/
def Obligations.RawByteIsWrittenOrRefusedForRoom : Prop :=
  ∀ (b : Byte) (s : State), s.dstLen.toNat ≤ s.config.dstCap.val →
    (s.wr.toNat < s.dstLen.toNat →
      exec (.rawByte b) s = .next { s with
        rd := s.rd + 1, wr := s.wr + 4, dst := s.dst.write s.wr.toNat b }) ∧
    (s.dstLen.toNat ≤ s.wr.toNat →
      exec (.rawByte b) s = .next { s with
        rd := s.rd + 1, fsm := .idle
        status := { busy := false, done := false, err := true, errcode := 1 } })

/-- The frame of the four stream elements, whatever their end: CMD, SRC, the length registers and the capacities are
unchanged; they store only at WR + 4·k for k below their output count, below DST_LEN (10_state.md R23, 20_memory.md
R65); only PB.REP writes REPV, and RAW.BYTE writes neither CTRL nor CNT (10_state.md R21). -/
def Obligations.StreamElementFrame : Prop :=
  ∀ (i : Instr) (s t : State), i.format ≠ .cmd32 → i.wellFormed = true → s.dstLen.toNat ≤ s.config.dstCap.val →
    s.wr.toNat ≤ s.dstLen.toNat + 3 → exec i s = .next t →
    t.cmd = s.cmd ∧ s.sameSurroundings t ∧
    (∀ a, (s.dstLen.toNat ≤ a ∨ ∀ k, k < i.outputCount → a ≠ s.wr.toNat + 4 * k) → t.dstByte a = s.dstByte a) ∧
    ((∀ c, i ≠ .pbRep c) → t.repv = s.repv) ∧ (i.format = .raw8 → t.ctrl = s.ctrl ∧ t.cnt = s.cnt) ∧
    (t.status = s.status ∨ ∃ e, t.status = Status.failed e)

/-- A packet's micro-steps reach exactly the state that the packet's exec reaches (42_packbits.md R196, R197). -/
def Obligations.MicroStepsReachTheWholePacket : Prop :=
  ∀ (s : State) (i : Instr), s.Inv → s.fsm = .awaitCtrl → s.rd.toNat < s.srcLen.toNat →
    decode (.pb8 (s.srcByte (s.srcOff.toNat + s.rd.toNat))) = .ok i →
    ∃ n, n ≤ 130 ∧ Host.Core.run Sys2Proof.core n { s with agenda := List.replicate n .engine } =
      exec i { s with agenda := [] }

/-! ## Errors -/

/-- 60_exceptions.md R262 and 40_command_interface.md R137: raise E sets FSM, BUSY, DONE, ERR and ERRCODE, finish sets
FSM, BUSY and DONE, and neither changes RD, WR, a RAM or anything else. -/
def Obligations.RaiseAndFinishRecordTheEnd : Prop :=
  ∀ s : State,
    (∀ e : ErrorKind, raiseError e s = { s with
      fsm := .idle
      status := {
        busy := false
        done := false
        err := true
        errcode := match e with
          | .bufferTooSmall => 1
          | .truncatedInput => 2
          | .illegalCommand => 3 } }) ∧
    finish s = { s with fsm := .idle, status := { s.status with busy := false, done := true } }

/-- 60_exceptions.md R264, R265: from a state that meets the invariant and with no error, a micro-step that ends with an
error ends with BufferTooSmall only where WR ≥ DST_LEN and with TruncatedInput only in the PackBits states with
RD = SRC_LEN; FILL raises neither, and the Raw Unpacker never raises TruncatedInput. -/
def Obligations.ErrorsAriseOnlyWhereTheirCauseIs : Prop :=
  ∀ s t : State, s.Inv → s.status.busy = true → microStep s = .next t → t.status.err = true →
    s.fsm ≠ .filling ∧ t.dst = s.dst ∧
    ((t.status.errcode = 1 ∧ s.dstLen.toNat ≤ s.wr.toNat ∧ t.wr = s.wr) ∨
      (t.status.errcode = 2 ∧ s.rd = s.srcLen ∧ (s.fsm = .lit ∨ s.fsm = .repFetch) ∧ t.rd = s.rd ∧ t.wr = s.wr))

/-! ## Liveness -/

/-- Bounded liveness (70_reset_and_hazards.md R308, 40_command_interface.md R138): from every state that
meets the invariant a host that waits reads BUSY = 0 after finitely many steps, with nothing refused and no fault. That
the engine gets the turn is the fairness the rule assumes (log 8). -/
def Obligations.WaitEnds : Prop :=
  ∀ (s : State) (rest : List Turn), s.Inv → s.agenda = .wait :: rest →
    ∃ n t, Host.Core.run Sys2Proof.core n s = .next t ∧ t.status.busy = false ∧ t.agenda = rest

/-! ## Pseudo-commands -/

/-- 44_compositor.md R237 to R240: DECODE_RGB, DECODE_RGBA, DECODE_GRAY and DECODE_GRAY_A expand to Place, Size, F and
their channel steps, in this order (R236). Where a slice passes SRC's end or a number does not fit its register, what is
placed and written is the model's choice, as is that slices are placed in the order of the call: Place stops at SRC_CAP
and the register takes 2^32 - 1 (log 12). -/
def Obligations.PseudoCommandsExpand : Prop :=
  ∀ (s : State) (rest : List Turn) (n : Nat) (r g b a : Channel),
    let cap := s.config.srcCap.val
    let P := fun c => placeChannel cap c
    let size : List Turn := [.writeReg 0x10 4 (wordOfNat (4 * n))]
    let F := fun v : Byte => [Turn.command (fillWord v), .wait, .stopOnErr]
    let CH := fun (k : Slot) (c : Channel) =>
      [Turn.writeReg 0x08 4 (wordOfNat c.offset), .writeReg 0x0C 4 (wordOfNat c.bytes.length),
        .command (dispatchWord k c.mode), .wait, .stopOnErr]
    (s.agenda = .call (.rgb n r g b) :: rest → step s = .next { s with
      agenda := P r ++ P g ++ P b ++ size ++ F 0xFF ++ CH 0 r ++ CH 1 g ++ CH 2 b ++ .returnOk (4 * n) :: rest }) ∧
    (s.agenda = .call (.rgba n r g b a) :: rest → step s = .next { s with
      agenda := P r ++ P g ++ P b ++ P a ++ size ++ F 0x00 ++ CH 0 r ++ CH 1 g ++ CH 2 b ++ CH 3 a
        ++ .returnOk (4 * n) :: rest }) ∧
    (s.agenda = .call (.gray n r) :: rest → step s = .next { s with
      agenda := P r ++ size ++ F 0xFF ++ CH 0 r ++ CH 1 r ++ CH 2 r ++ .returnOk (4 * n) :: rest }) ∧
    (s.agenda = .call (.grayA n r a) :: rest → step s = .next { s with
      agenda := P r ++ P a ++ size ++ F 0x00 ++ CH 0 r ++ CH 1 r ++ CH 2 r ++ CH 3 a ++ .returnOk (4 * n) :: rest })

/-- 44_compositor.md R241: at a step whose STATUS shows ERR = 1 the pseudo-command returns error(ERRCODE) and none of
its later steps runs; with ERR = 0 it goes on. -/
def Obligations.PseudoCommandAborts : Prop :=
  ∀ (s : State) (steps rest : List Turn) (n : Nat), (∀ m, .returnOk m ∉ steps) →
    s.agenda = .stopOnErr :: (steps ++ .returnOk n :: rest) →
    (s.status.err = true → step s = .next { s with
      agenda := rest, received := s.received ++ [.error s.status.errcode] }) ∧
    (s.status.err = false → step s = .next { s with agenda := steps ++ .returnOk n :: rest })

/-- 44_compositor.md R237 to R241: a pseudo-command begun in an idle state, whose buffer fits DST and whose
slices fit SRC and agree where they overlap, runs to its end and returns exactly callResult: the error of its first
failing channel in slot order, or the interleaved buffer with the fill byte where no channel wrote. That it runs to its
end rests on the model's choices: its commands are run whole (log 6), and WAIT gives the engine the turn, the fairness
that R308 assumes (log 8). -/
def Obligations.PseudoCommandReturnsItsResult : Prop :=
  ∀ (s : State) (c : Call) (rest : List Turn), s.status.busy = false → s.agenda = .call c :: rest →
    4 * callPixels c ≤ s.config.dstCap.val →
    (∀ x ∈ callSlices c, x.offset + x.bytes.length ≤ s.config.srcCap.val) →
    (∀ x ∈ callSlices c, ∀ y ∈ callSlices c, ∀ i j, i < x.bytes.length → j < y.bytes.length →
      x.offset + i = y.offset + j → x.bytes[i]? = y.bytes[j]?) →
    ∃ n t, Host.Core.run Sys2Proof.core n s = .next t ∧ t.agenda = rest ∧ t.status.busy = false ∧
      t.received = s.received ++ [callResult c]

/-- 44_compositor.md R242: a pseudo-command whose buffer does not fit DST returns error(3), from its fill. The Place
step of a slice that does not fit SRC is the model's choice (log 12). The engine is idle, as it is whenever BUSY = 0
(10_state.md R27). -/
def Obligations.TooLargeCallReturnsIllegalCommand : Prop :=
  ∀ (s : State) (c : Call) (rest : List Turn), s.status.busy = false → s.fsm = .idle → s.agenda = .call c :: rest →
    s.config.dstCap.val < 4 * callPixels c →
    ∃ n t, Host.Core.run Sys2Proof.core n s = .next t ∧ t.agenda = rest ∧ t.received = s.received ++ [.error 3]

/-- 44_compositor.md R239, R245: a pseudo-command begun in an idle state, whose buffer fits DST and whose slices fit SRC
and agree where they overlap (R236), runs to its end and returns one result r. Where r is ok(bytes), bytes has
4·pixel_count bytes; without an alpha channel slot 3 of every pixel is 0xFF; in a grayscale call slots 0, 1 and 2 of a
pixel hold the same byte; and a missing alpha channel, given as an empty one, leaves slot 3 at 0x00. That it runs to its
end rests on logs 6 and 8, the model's choices. -/
def Obligations.OpaqueAlphaAndGrayBroadcast : Prop :=
  ∀ (s : State) (c : Call) (rest : List Turn), s.status.busy = false → s.fsm = .idle → s.agenda = .call c :: rest →
    4 * callPixels c ≤ s.config.dstCap.val →
    (∀ x ∈ callSlices c, x.offset + x.bytes.length ≤ s.config.srcCap.val) →
    (∀ x ∈ callSlices c, ∀ y ∈ callSlices c, ∀ i j, i < x.bytes.length → j < y.bytes.length →
      x.offset + i = y.offset + j → x.bytes[i]? = y.bytes[j]?) →
    ∃ k t r, Host.Core.run Sys2Proof.core k s = .next t ∧ t.agenda = rest ∧ t.received = s.received ++ [r] ∧
      ∀ bytes, r = .ok bytes →
        bytes.length = 4 * callPixels c ∧
        ∀ p, p < callPixels c →
          (((∃ n x y z, c = .rgb n x y z) ∨ (∃ n x, c = .gray n x)) → bytes[4 * p + 3]? = some 0xFF) ∧
          (((∃ n x, c = .gray n x) ∨ (∃ n x y, c = .grayA n x y)) →
            bytes[4 * p + 1]? = bytes[4 * p]? ∧ bytes[4 * p + 2]? = bytes[4 * p]?) ∧
          (((∃ n x y z w, c = .rgba n x y z w ∧ w.bytes = []) ∨ (∃ n x w, c = .grayA n x w ∧ w.bytes = [])) →
            bytes[4 * p + 3]? = some 0x00)
end

