-- ==== Sys2Proof/Laws/State.lean ====
section
/-! SUPPORT. One lemma per field per named update of State, each true by rfl, so that no proof unfolds an update. -/

namespace Sys2Proof.Machine

variable (s : State)

/-! consume -/

@[simp] theorem consume_config : (consume s).config = s.config := rfl
@[simp] theorem consume_cmd : (consume s).cmd = s.cmd := rfl
@[simp] theorem consume_status : (consume s).status = s.status := rfl
@[simp] theorem consume_srcOff : (consume s).srcOff = s.srcOff := rfl
@[simp] theorem consume_srcLen : (consume s).srcLen = s.srcLen := rfl
@[simp] theorem consume_dstLen : (consume s).dstLen = s.dstLen := rfl
@[simp] theorem consume_rd : (consume s).rd = s.rd + 1 := rfl
@[simp] theorem consume_wr : (consume s).wr = s.wr := rfl
@[simp] theorem consume_ctrl : (consume s).ctrl = s.ctrl := rfl
@[simp] theorem consume_cnt : (consume s).cnt = s.cnt := rfl
@[simp] theorem consume_repv : (consume s).repv = s.repv := rfl
@[simp] theorem consume_fsm : (consume s).fsm = s.fsm := rfl
@[simp] theorem consume_src : (consume s).src = s.src := rfl
@[simp] theorem consume_dst : (consume s).dst = s.dst := rfl
@[simp] theorem consume_ramEpoch : (consume s).ramEpoch = s.ramEpoch := rfl
@[simp] theorem consume_draws : (consume s).draws = s.draws := rfl
@[simp] theorem consume_agenda : (consume s).agenda = s.agenda := rfl
@[simp] theorem consume_received : (consume s).received = s.received := rfl

/-! finish -/

@[simp] theorem finish_config : (finish s).config = s.config := rfl
@[simp] theorem finish_cmd : (finish s).cmd = s.cmd := rfl
@[simp] theorem finish_status : (finish s).status = s.status.finished := rfl
@[simp] theorem finish_srcOff : (finish s).srcOff = s.srcOff := rfl
@[simp] theorem finish_srcLen : (finish s).srcLen = s.srcLen := rfl
@[simp] theorem finish_dstLen : (finish s).dstLen = s.dstLen := rfl
@[simp] theorem finish_rd : (finish s).rd = s.rd := rfl
@[simp] theorem finish_wr : (finish s).wr = s.wr := rfl
@[simp] theorem finish_ctrl : (finish s).ctrl = s.ctrl := rfl
@[simp] theorem finish_cnt : (finish s).cnt = s.cnt := rfl
@[simp] theorem finish_repv : (finish s).repv = s.repv := rfl
@[simp] theorem finish_fsm : (finish s).fsm = .idle := rfl
@[simp] theorem finish_src : (finish s).src = s.src := rfl
@[simp] theorem finish_dst : (finish s).dst = s.dst := rfl
@[simp] theorem finish_ramEpoch : (finish s).ramEpoch = s.ramEpoch := rfl
@[simp] theorem finish_draws : (finish s).draws = s.draws := rfl
@[simp] theorem finish_agenda : (finish s).agenda = s.agenda := rfl
@[simp] theorem finish_received : (finish s).received = s.received := rfl

/-! raiseError -/

@[simp] theorem raiseError_config (e : ErrorKind) : (raiseError e s).config = s.config := rfl
@[simp] theorem raiseError_cmd (e : ErrorKind) : (raiseError e s).cmd = s.cmd := rfl
@[simp] theorem raiseError_status (e : ErrorKind) : (raiseError e s).status = Status.failed e := rfl
@[simp] theorem raiseError_srcOff (e : ErrorKind) : (raiseError e s).srcOff = s.srcOff := rfl
@[simp] theorem raiseError_srcLen (e : ErrorKind) : (raiseError e s).srcLen = s.srcLen := rfl
@[simp] theorem raiseError_dstLen (e : ErrorKind) : (raiseError e s).dstLen = s.dstLen := rfl
@[simp] theorem raiseError_rd (e : ErrorKind) : (raiseError e s).rd = s.rd := rfl
@[simp] theorem raiseError_wr (e : ErrorKind) : (raiseError e s).wr = s.wr := rfl
@[simp] theorem raiseError_ctrl (e : ErrorKind) : (raiseError e s).ctrl = s.ctrl := rfl
@[simp] theorem raiseError_cnt (e : ErrorKind) : (raiseError e s).cnt = s.cnt := rfl
@[simp] theorem raiseError_repv (e : ErrorKind) : (raiseError e s).repv = s.repv := rfl
@[simp] theorem raiseError_fsm (e : ErrorKind) : (raiseError e s).fsm = .idle := rfl
@[simp] theorem raiseError_src (e : ErrorKind) : (raiseError e s).src = s.src := rfl
@[simp] theorem raiseError_dst (e : ErrorKind) : (raiseError e s).dst = s.dst := rfl
@[simp] theorem raiseError_ramEpoch (e : ErrorKind) : (raiseError e s).ramEpoch = s.ramEpoch := rfl
@[simp] theorem raiseError_draws (e : ErrorKind) : (raiseError e s).draws = s.draws := rfl
@[simp] theorem raiseError_agenda (e : ErrorKind) : (raiseError e s).agenda = s.agenda := rfl
@[simp] theorem raiseError_received (e : ErrorKind) : (raiseError e s).received = s.received := rfl

/-! acknowledge -/

@[simp] theorem acknowledge_config (w : Word) : (acknowledge w s).config = s.config := rfl
@[simp] theorem acknowledge_cmd (w : Word) : (acknowledge w s).cmd = s.cmd := rfl
@[simp] theorem acknowledge_status (w : Word) : (acknowledge w s).status = s.status.acknowledged w := rfl
@[simp] theorem acknowledge_srcOff (w : Word) : (acknowledge w s).srcOff = s.srcOff := rfl
@[simp] theorem acknowledge_srcLen (w : Word) : (acknowledge w s).srcLen = s.srcLen := rfl
@[simp] theorem acknowledge_dstLen (w : Word) : (acknowledge w s).dstLen = s.dstLen := rfl
@[simp] theorem acknowledge_rd (w : Word) : (acknowledge w s).rd = s.rd := rfl
@[simp] theorem acknowledge_wr (w : Word) : (acknowledge w s).wr = s.wr := rfl
@[simp] theorem acknowledge_ctrl (w : Word) : (acknowledge w s).ctrl = s.ctrl := rfl
@[simp] theorem acknowledge_cnt (w : Word) : (acknowledge w s).cnt = s.cnt := rfl
@[simp] theorem acknowledge_repv (w : Word) : (acknowledge w s).repv = s.repv := rfl
@[simp] theorem acknowledge_fsm (w : Word) : (acknowledge w s).fsm = s.fsm := rfl
@[simp] theorem acknowledge_src (w : Word) : (acknowledge w s).src = s.src := rfl
@[simp] theorem acknowledge_dst (w : Word) : (acknowledge w s).dst = s.dst := rfl
@[simp] theorem acknowledge_ramEpoch (w : Word) : (acknowledge w s).ramEpoch = s.ramEpoch := rfl
@[simp] theorem acknowledge_draws (w : Word) : (acknowledge w s).draws = s.draws := rfl
@[simp] theorem acknowledge_agenda (w : Word) : (acknowledge w s).agenda = s.agenda := rfl
@[simp] theorem acknowledge_received (w : Word) : (acknowledge w s).received = s.received := rfl

/-! rejectCommand -/

@[simp] theorem rejectCommand_config : (rejectCommand s).config = s.config := rfl
@[simp] theorem rejectCommand_cmd : (rejectCommand s).cmd = s.cmd := rfl
@[simp] theorem rejectCommand_status : (rejectCommand s).status = s.status.rejected := rfl
@[simp] theorem rejectCommand_srcOff : (rejectCommand s).srcOff = s.srcOff := rfl
@[simp] theorem rejectCommand_srcLen : (rejectCommand s).srcLen = s.srcLen := rfl
@[simp] theorem rejectCommand_dstLen : (rejectCommand s).dstLen = s.dstLen := rfl
@[simp] theorem rejectCommand_rd : (rejectCommand s).rd = s.rd := rfl
@[simp] theorem rejectCommand_wr : (rejectCommand s).wr = 0 := rfl
@[simp] theorem rejectCommand_ctrl : (rejectCommand s).ctrl = s.ctrl := rfl
@[simp] theorem rejectCommand_cnt : (rejectCommand s).cnt = s.cnt := rfl
@[simp] theorem rejectCommand_repv : (rejectCommand s).repv = s.repv := rfl
@[simp] theorem rejectCommand_fsm : (rejectCommand s).fsm = s.fsm := rfl
@[simp] theorem rejectCommand_src : (rejectCommand s).src = s.src := rfl
@[simp] theorem rejectCommand_dst : (rejectCommand s).dst = s.dst := rfl
@[simp] theorem rejectCommand_ramEpoch : (rejectCommand s).ramEpoch = s.ramEpoch := rfl
@[simp] theorem rejectCommand_draws : (rejectCommand s).draws = s.draws := rfl
@[simp] theorem rejectCommand_agenda : (rejectCommand s).agenda = s.agenda := rfl
@[simp] theorem rejectCommand_received : (rejectCommand s).received = s.received := rfl

/-! startCommand -/

@[simp] theorem startCommand_config (i : Instr) : (startCommand i s).config = s.config := rfl
@[simp] theorem startCommand_cmd (i : Instr) : (startCommand i s).cmd = s.cmd := rfl
@[simp] theorem startCommand_status (i : Instr) : (startCommand i s).status = s.status.started := rfl
@[simp] theorem startCommand_srcOff (i : Instr) : (startCommand i s).srcOff = s.srcOff := rfl
@[simp] theorem startCommand_srcLen (i : Instr) : (startCommand i s).srcLen = s.srcLen := rfl
@[simp] theorem startCommand_dstLen (i : Instr) : (startCommand i s).dstLen = s.dstLen := rfl
@[simp] theorem startCommand_rd (i : Instr) : (startCommand i s).rd = s.rd := rfl
@[simp] theorem startCommand_wr (i : Instr) : (startCommand i s).wr = startWr i := rfl
@[simp] theorem startCommand_ctrl (i : Instr) : (startCommand i s).ctrl = s.ctrl := rfl
@[simp] theorem startCommand_cnt (i : Instr) : (startCommand i s).cnt = s.cnt := rfl
@[simp] theorem startCommand_repv (i : Instr) : (startCommand i s).repv = s.repv := rfl
@[simp] theorem startCommand_fsm (i : Instr) : (startCommand i s).fsm = startFsm i := rfl
@[simp] theorem startCommand_src (i : Instr) : (startCommand i s).src = s.src := rfl
@[simp] theorem startCommand_dst (i : Instr) : (startCommand i s).dst = s.dst := rfl
@[simp] theorem startCommand_ramEpoch (i : Instr) : (startCommand i s).ramEpoch = s.ramEpoch := rfl
@[simp] theorem startCommand_draws (i : Instr) : (startCommand i s).draws = s.draws := rfl
@[simp] theorem startCommand_agenda (i : Instr) : (startCommand i s).agenda = s.agenda := rfl
@[simp] theorem startCommand_received (i : Instr) : (startCommand i s).received = s.received := rfl

/-! latchCommand -/

@[simp] theorem latchCommand_config (w : Word) : (latchCommand w s).config = s.config := rfl
@[simp] theorem latchCommand_cmd (w : Word) : (latchCommand w s).cmd = w := rfl
@[simp] theorem latchCommand_status (w : Word) : (latchCommand w s).status = s.status.cleared := rfl
@[simp] theorem latchCommand_srcOff (w : Word) : (latchCommand w s).srcOff = s.srcOff := rfl
@[simp] theorem latchCommand_srcLen (w : Word) : (latchCommand w s).srcLen = s.srcLen := rfl
@[simp] theorem latchCommand_dstLen (w : Word) : (latchCommand w s).dstLen = s.dstLen := rfl
@[simp] theorem latchCommand_rd (w : Word) : (latchCommand w s).rd = 0 := rfl
@[simp] theorem latchCommand_wr (w : Word) : (latchCommand w s).wr = s.wr := rfl
@[simp] theorem latchCommand_ctrl (w : Word) : (latchCommand w s).ctrl = s.ctrl := rfl
@[simp] theorem latchCommand_cnt (w : Word) : (latchCommand w s).cnt = s.cnt := rfl
@[simp] theorem latchCommand_repv (w : Word) : (latchCommand w s).repv = s.repv := rfl
@[simp] theorem latchCommand_fsm (w : Word) : (latchCommand w s).fsm = s.fsm := rfl
@[simp] theorem latchCommand_src (w : Word) : (latchCommand w s).src = s.src := rfl
@[simp] theorem latchCommand_dst (w : Word) : (latchCommand w s).dst = s.dst := rfl
@[simp] theorem latchCommand_ramEpoch (w : Word) : (latchCommand w s).ramEpoch = s.ramEpoch := rfl
@[simp] theorem latchCommand_draws (w : Word) : (latchCommand w s).draws = s.draws := rfl
@[simp] theorem latchCommand_agenda (w : Word) : (latchCommand w s).agenda = s.agenda := rfl
@[simp] theorem latchCommand_received (w : Word) : (latchCommand w s).received = s.received := rfl

/-! openNop -/

@[simp] theorem openNop_config : (openNop s).config = s.config := rfl
@[simp] theorem openNop_cmd : (openNop s).cmd = s.cmd := rfl
@[simp] theorem openNop_status : (openNop s).status = s.status := rfl
@[simp] theorem openNop_srcOff : (openNop s).srcOff = s.srcOff := rfl
@[simp] theorem openNop_srcLen : (openNop s).srcLen = s.srcLen := rfl
@[simp] theorem openNop_dstLen : (openNop s).dstLen = s.dstLen := rfl
@[simp] theorem openNop_rd : (openNop s).rd = s.rd + 1 := rfl
@[simp] theorem openNop_wr : (openNop s).wr = s.wr := rfl
@[simp] theorem openNop_ctrl : (openNop s).ctrl = 0x80 := rfl
@[simp] theorem openNop_cnt : (openNop s).cnt = s.cnt := rfl
@[simp] theorem openNop_repv : (openNop s).repv = s.repv := rfl
@[simp] theorem openNop_fsm : (openNop s).fsm = .emitNoop := rfl
@[simp] theorem openNop_src : (openNop s).src = s.src := rfl
@[simp] theorem openNop_dst : (openNop s).dst = s.dst := rfl
@[simp] theorem openNop_ramEpoch : (openNop s).ramEpoch = s.ramEpoch := rfl
@[simp] theorem openNop_draws : (openNop s).draws = s.draws := rfl
@[simp] theorem openNop_agenda : (openNop s).agenda = s.agenda := rfl
@[simp] theorem openNop_received : (openNop s).received = s.received := rfl

/-! openLiteral -/

@[simp] theorem openLiteral_config (n : BitVec 7) : (openLiteral n s).config = s.config := rfl
@[simp] theorem openLiteral_cmd (n : BitVec 7) : (openLiteral n s).cmd = s.cmd := rfl
@[simp] theorem openLiteral_status (n : BitVec 7) : (openLiteral n s).status = s.status := rfl
@[simp] theorem openLiteral_srcOff (n : BitVec 7) : (openLiteral n s).srcOff = s.srcOff := rfl
@[simp] theorem openLiteral_srcLen (n : BitVec 7) : (openLiteral n s).srcLen = s.srcLen := rfl
@[simp] theorem openLiteral_dstLen (n : BitVec 7) : (openLiteral n s).dstLen = s.dstLen := rfl
@[simp] theorem openLiteral_rd (n : BitVec 7) : (openLiteral n s).rd = s.rd + 1 := rfl
@[simp] theorem openLiteral_wr (n : BitVec 7) : (openLiteral n s).wr = s.wr := rfl
@[simp] theorem openLiteral_ctrl (n : BitVec 7) : (openLiteral n s).ctrl = litControl n := rfl
@[simp] theorem openLiteral_cnt (n : BitVec 7) : (openLiteral n s).cnt = BitVec.ofNat 8 (literalCount n) := rfl
@[simp] theorem openLiteral_repv (n : BitVec 7) : (openLiteral n s).repv = s.repv := rfl
@[simp] theorem openLiteral_fsm (n : BitVec 7) : (openLiteral n s).fsm = .lit := rfl
@[simp] theorem openLiteral_src (n : BitVec 7) : (openLiteral n s).src = s.src := rfl
@[simp] theorem openLiteral_dst (n : BitVec 7) : (openLiteral n s).dst = s.dst := rfl
@[simp] theorem openLiteral_ramEpoch (n : BitVec 7) : (openLiteral n s).ramEpoch = s.ramEpoch := rfl
@[simp] theorem openLiteral_draws (n : BitVec 7) : (openLiteral n s).draws = s.draws := rfl
@[simp] theorem openLiteral_agenda (n : BitVec 7) : (openLiteral n s).agenda = s.agenda := rfl
@[simp] theorem openLiteral_received (n : BitVec 7) : (openLiteral n s).received = s.received := rfl

/-! openRepeat -/

@[simp] theorem openRepeat_config (c : Byte) : (openRepeat c s).config = s.config := rfl
@[simp] theorem openRepeat_cmd (c : Byte) : (openRepeat c s).cmd = s.cmd := rfl
@[simp] theorem openRepeat_status (c : Byte) : (openRepeat c s).status = s.status := rfl
@[simp] theorem openRepeat_srcOff (c : Byte) : (openRepeat c s).srcOff = s.srcOff := rfl
@[simp] theorem openRepeat_srcLen (c : Byte) : (openRepeat c s).srcLen = s.srcLen := rfl
@[simp] theorem openRepeat_dstLen (c : Byte) : (openRepeat c s).dstLen = s.dstLen := rfl
@[simp] theorem openRepeat_rd (c : Byte) : (openRepeat c s).rd = s.rd + 1 := rfl
@[simp] theorem openRepeat_wr (c : Byte) : (openRepeat c s).wr = s.wr := rfl
@[simp] theorem openRepeat_ctrl (c : Byte) : (openRepeat c s).ctrl = c := rfl
@[simp] theorem openRepeat_cnt (c : Byte) : (openRepeat c s).cnt = BitVec.ofNat 8 (repeatCount c) := rfl
@[simp] theorem openRepeat_repv (c : Byte) : (openRepeat c s).repv = s.repv := rfl
@[simp] theorem openRepeat_fsm (c : Byte) : (openRepeat c s).fsm = .repFetch := rfl
@[simp] theorem openRepeat_src (c : Byte) : (openRepeat c s).src = s.src := rfl
@[simp] theorem openRepeat_dst (c : Byte) : (openRepeat c s).dst = s.dst := rfl
@[simp] theorem openRepeat_ramEpoch (c : Byte) : (openRepeat c s).ramEpoch = s.ramEpoch := rfl
@[simp] theorem openRepeat_draws (c : Byte) : (openRepeat c s).draws = s.draws := rfl
@[simp] theorem openRepeat_agenda (c : Byte) : (openRepeat c s).agenda = s.agenda := rfl
@[simp] theorem openRepeat_received (c : Byte) : (openRepeat c s).received = s.received := rfl

/-! noopStep -/

@[simp] theorem noopStep_config : (noopStep s).config = s.config := rfl
@[simp] theorem noopStep_cmd : (noopStep s).cmd = s.cmd := rfl
@[simp] theorem noopStep_status : (noopStep s).status = s.status := rfl
@[simp] theorem noopStep_srcOff : (noopStep s).srcOff = s.srcOff := rfl
@[simp] theorem noopStep_srcLen : (noopStep s).srcLen = s.srcLen := rfl
@[simp] theorem noopStep_dstLen : (noopStep s).dstLen = s.dstLen := rfl
@[simp] theorem noopStep_rd : (noopStep s).rd = s.rd := rfl
@[simp] theorem noopStep_wr : (noopStep s).wr = s.wr := rfl
@[simp] theorem noopStep_ctrl : (noopStep s).ctrl = s.ctrl := rfl
@[simp] theorem noopStep_cnt : (noopStep s).cnt = s.cnt := rfl
@[simp] theorem noopStep_repv : (noopStep s).repv = s.repv := rfl
@[simp] theorem noopStep_fsm : (noopStep s).fsm = .awaitCtrl := rfl
@[simp] theorem noopStep_src : (noopStep s).src = s.src := rfl
@[simp] theorem noopStep_dst : (noopStep s).dst = s.dst := rfl
@[simp] theorem noopStep_ramEpoch : (noopStep s).ramEpoch = s.ramEpoch := rfl
@[simp] theorem noopStep_draws : (noopStep s).draws = s.draws := rfl
@[simp] theorem noopStep_agenda : (noopStep s).agenda = s.agenda := rfl
@[simp] theorem noopStep_received : (noopStep s).received = s.received := rfl

/-! countDown -/

@[simp] theorem countDown_config : (countDown s).config = s.config := rfl
@[simp] theorem countDown_cmd : (countDown s).cmd = s.cmd := rfl
@[simp] theorem countDown_status : (countDown s).status = s.status := rfl
@[simp] theorem countDown_srcOff : (countDown s).srcOff = s.srcOff := rfl
@[simp] theorem countDown_srcLen : (countDown s).srcLen = s.srcLen := rfl
@[simp] theorem countDown_dstLen : (countDown s).dstLen = s.dstLen := rfl
@[simp] theorem countDown_rd : (countDown s).rd = s.rd := rfl
@[simp] theorem countDown_wr : (countDown s).wr = s.wr := rfl
@[simp] theorem countDown_ctrl : (countDown s).ctrl = s.ctrl := rfl
@[simp] theorem countDown_cnt : (countDown s).cnt = s.cnt - 1 := rfl
@[simp] theorem countDown_repv : (countDown s).repv = s.repv := rfl
@[simp] theorem countDown_fsm : (countDown s).fsm = if s.cnt - 1 = 0 then .awaitCtrl else s.fsm := rfl
@[simp] theorem countDown_src : (countDown s).src = s.src := rfl
@[simp] theorem countDown_dst : (countDown s).dst = s.dst := rfl
@[simp] theorem countDown_ramEpoch : (countDown s).ramEpoch = s.ramEpoch := rfl
@[simp] theorem countDown_draws : (countDown s).draws = s.draws := rfl
@[simp] theorem countDown_agenda : (countDown s).agenda = s.agenda := rfl
@[simp] theorem countDown_received : (countDown s).received = s.received := rfl

/-! record -/

@[simp] theorem record_config (r : Received) : (record r s).config = s.config := rfl
@[simp] theorem record_cmd (r : Received) : (record r s).cmd = s.cmd := rfl
@[simp] theorem record_status (r : Received) : (record r s).status = s.status := rfl
@[simp] theorem record_srcOff (r : Received) : (record r s).srcOff = s.srcOff := rfl
@[simp] theorem record_srcLen (r : Received) : (record r s).srcLen = s.srcLen := rfl
@[simp] theorem record_dstLen (r : Received) : (record r s).dstLen = s.dstLen := rfl
@[simp] theorem record_rd (r : Received) : (record r s).rd = s.rd := rfl
@[simp] theorem record_wr (r : Received) : (record r s).wr = s.wr := rfl
@[simp] theorem record_ctrl (r : Received) : (record r s).ctrl = s.ctrl := rfl
@[simp] theorem record_cnt (r : Received) : (record r s).cnt = s.cnt := rfl
@[simp] theorem record_repv (r : Received) : (record r s).repv = s.repv := rfl
@[simp] theorem record_fsm (r : Received) : (record r s).fsm = s.fsm := rfl
@[simp] theorem record_src (r : Received) : (record r s).src = s.src := rfl
@[simp] theorem record_dst (r : Received) : (record r s).dst = s.dst := rfl
@[simp] theorem record_ramEpoch (r : Received) : (record r s).ramEpoch = s.ramEpoch := rfl
@[simp] theorem record_draws (r : Received) : (record r s).draws = s.draws := rfl
@[simp] theorem record_agenda (r : Received) : (record r s).agenda = s.agenda := rfl
@[simp] theorem record_received (r : Received) : (record r s).received = s.received ++ [r] := rfl

/-! applyReset -/

@[simp] theorem applyReset_config : (applyReset s).config = s.config := rfl
@[simp] theorem applyReset_cmd : (applyReset s).cmd = 0 := rfl
@[simp] theorem applyReset_status : (applyReset s).status = Status.reset := rfl
@[simp] theorem applyReset_srcOff : (applyReset s).srcOff = 0 := rfl
@[simp] theorem applyReset_srcLen : (applyReset s).srcLen = 0 := rfl
@[simp] theorem applyReset_dstLen : (applyReset s).dstLen = 0 := rfl
@[simp] theorem applyReset_rd : (applyReset s).rd = 0 := rfl
@[simp] theorem applyReset_wr : (applyReset s).wr = 0 := rfl
@[simp] theorem applyReset_ctrl : (applyReset s).ctrl = 0 := rfl
@[simp] theorem applyReset_cnt : (applyReset s).cnt = 0 := rfl
@[simp] theorem applyReset_repv : (applyReset s).repv = 0 := rfl
@[simp] theorem applyReset_fsm : (applyReset s).fsm = .idle := rfl
@[simp] theorem applyReset_src : (applyReset s).src = [] := rfl
@[simp] theorem applyReset_dst : (applyReset s).dst = [] := rfl
@[simp] theorem applyReset_ramEpoch : (applyReset s).ramEpoch = s.ramEpoch + 1 := rfl
@[simp] theorem applyReset_draws : (applyReset s).draws = s.draws := rfl
@[simp] theorem applyReset_agenda : (applyReset s).agenda = s.agenda := rfl
@[simp] theorem applyReset_received : (applyReset s).received = s.received := rfl

/-! resetWith -/

@[simp] theorem resetWith_config (c : Config) : (State.resetWith c).config = c := rfl
@[simp] theorem resetWith_cmd (c : Config) : (State.resetWith c).cmd = 0 := rfl
@[simp] theorem resetWith_status (c : Config) : (State.resetWith c).status = Status.reset := rfl
@[simp] theorem resetWith_srcOff (c : Config) : (State.resetWith c).srcOff = 0 := rfl
@[simp] theorem resetWith_srcLen (c : Config) : (State.resetWith c).srcLen = 0 := rfl
@[simp] theorem resetWith_dstLen (c : Config) : (State.resetWith c).dstLen = 0 := rfl
@[simp] theorem resetWith_rd (c : Config) : (State.resetWith c).rd = 0 := rfl
@[simp] theorem resetWith_wr (c : Config) : (State.resetWith c).wr = 0 := rfl
@[simp] theorem resetWith_ctrl (c : Config) : (State.resetWith c).ctrl = 0 := rfl
@[simp] theorem resetWith_cnt (c : Config) : (State.resetWith c).cnt = 0 := rfl
@[simp] theorem resetWith_repv (c : Config) : (State.resetWith c).repv = 0 := rfl
@[simp] theorem resetWith_fsm (c : Config) : (State.resetWith c).fsm = .idle := rfl
@[simp] theorem resetWith_src (c : Config) : (State.resetWith c).src = [] := rfl
@[simp] theorem resetWith_dst (c : Config) : (State.resetWith c).dst = [] := rfl
@[simp] theorem resetWith_ramEpoch (c : Config) : (State.resetWith c).ramEpoch = 0 := rfl
@[simp] theorem resetWith_draws (c : Config) : (State.resetWith c).draws = 0 := rfl
@[simp] theorem resetWith_agenda (c : Config) : (State.resetWith c).agenda = [] := rfl
@[simp] theorem resetWith_received (c : Config) : (State.resetWith c).received = [] := rfl

end Sys2Proof.Machine
end

