-- ==== Sys2Proof/Laws/Status.lean ====
section
/-! SUPPORT. One lemma per flag per way STATUS changes. -/

namespace Sys2Proof.Machine

variable (t : Status)

@[simp] theorem Status.cleared_busy : t.cleared.busy = t.busy := rfl
@[simp] theorem Status.cleared_done : t.cleared.done = false := rfl
@[simp] theorem Status.cleared_err : t.cleared.err = false := rfl
@[simp] theorem Status.cleared_errcode : t.cleared.errcode = 0 := rfl

@[simp] theorem Status.started_busy : t.started.busy = true := rfl
@[simp] theorem Status.started_done : t.started.done = t.done := rfl
@[simp] theorem Status.started_err : t.started.err = t.err := rfl
@[simp] theorem Status.started_errcode : t.started.errcode = t.errcode := rfl

@[simp] theorem Status.finished_busy : t.finished.busy = false := rfl
@[simp] theorem Status.finished_done : t.finished.done = true := rfl
@[simp] theorem Status.finished_err : t.finished.err = t.err := rfl
@[simp] theorem Status.finished_errcode : t.finished.errcode = t.errcode := rfl

@[simp] theorem Status.rejected_busy : t.rejected.busy = t.busy := rfl
@[simp] theorem Status.rejected_done : t.rejected.done = t.done := rfl
@[simp] theorem Status.rejected_err : t.rejected.err = true := rfl
@[simp] theorem Status.rejected_errcode : t.rejected.errcode = 3 := rfl

@[simp] theorem Status.acknowledged_busy (w : Word) : (t.acknowledged w).busy = t.busy := rfl
@[simp] theorem Status.acknowledged_done (w : Word) : (t.acknowledged w).done = if w.getLsbD 1 then false else t.done := rfl
@[simp] theorem Status.acknowledged_err (w : Word) : (t.acknowledged w).err = if w.getLsbD 2 then false else t.err := rfl
@[simp] theorem Status.acknowledged_errcode (w : Word) : (t.acknowledged w).errcode = if w.getLsbD 2 then 0 else t.errcode := rfl

@[simp] theorem Status.failed_busy (e : ErrorKind) : (Status.failed e).busy = false := rfl
@[simp] theorem Status.failed_done (e : ErrorKind) : (Status.failed e).done = false := rfl
@[simp] theorem Status.failed_err (e : ErrorKind) : (Status.failed e).err = true := rfl
@[simp] theorem Status.failed_errcode (e : ErrorKind) : (Status.failed e).errcode = e.code := rfl

@[simp] theorem Status.reset_busy : Status.reset.busy = false := rfl
@[simp] theorem Status.reset_done : Status.reset.done = false := rfl
@[simp] theorem Status.reset_err : Status.reset.err = false := rfl
@[simp] theorem Status.reset_errcode : Status.reset.errcode = 0 := rfl

end Sys2Proof.Machine
end

