-- ==== Sys2Proof/Laws/Ops.lean ====
section
/-! SUPPORT. One lemma per shared operation that says everything it can do; later proofs cite these. -/

namespace Sys2Proof.Machine

/-! Outcomes. -/

@[simp] theorem andThen_next (s : State) (f : State → Result) : andThen (.next s) f = f s := rfl
@[simp] theorem andThen_fault (r : Fault) (f : State → Result) : andThen (.fault r) f = .fault r := rfl
@[simp] theorem andThen_refused (r : Refusal) (f : State → Result) : andThen (.refused r) f = .refused r := rfl

theorem andThen_eq_next {o : Result} {f : State → Result} {t : State} :
    andThen o f = .next t ↔ ∃ s, o = .next s ∧ f s = .next t := by
  cases o <;> simp [andThen]

theorem andThen_assoc (o : Result) (f g : State → Result) :
    andThen (andThen o f) g = andThen o (fun s => andThen (f s) g) := by
  cases o <;> rfl

/-! The cursors' comparisons. -/

@[simp] theorem hasInput_iff (s : State) : s.hasInput = true ↔ s.rd.toNat < s.srcLen.toNat := by
  simp [State.hasInput]

@[simp] theorem hasRoom_iff (s : State) : s.hasRoom = true ↔ s.wr.toNat < s.dstLen.toNat := by
  simp [State.hasRoom]

@[simp] theorem bufferFits_iff (s : State) : s.bufferFits = true ↔ s.dstLen.toNat ≤ s.config.dstCap.val := by
  simp [State.bufferFits]

@[simp] theorem channelFits_iff (s : State) :
    s.channelFits = true ↔ s.srcOff.toNat + s.srcLen.toNat ≤ s.config.srcCap.val := by
  simp [State.channelFits]

/-! The engine's accesses. -/

theorem withInput_eq_next {s : State} {f : Byte → Result} {t : State} :
    withInput s f = .next t ↔ s.readAddr < s.config.srcCap.val ∧ f (s.srcByte s.readAddr) = .next t := by
  unfold withInput
  split <;> simp_all

theorem store_eq_next {b : Byte} {k : Word} {s t : State} :
    store b k s = .next t ↔
      s.wr.toNat < s.config.dstCap.val ∧
        t = { s with dst := s.dst.write s.wr.toNat b, wr := s.wr + k } := by
  unfold store
  split
  · simp_all [eq_comm]
  · simp_all

/-- The state after a stored byte. -/
abbrev stored (b : Byte) (k : Word) (s : State) : State :=
  { s with dst := s.dst.write s.wr.toNat b, wr := s.wr + k }

/-! A micro-step. -/

/-- Everything one micro-step can do (42_packbits.md R196, 41_raw_unpacker.md R163, 40_command_interface.md R146). -/
inductive Moves (s : State) : State → Prop where
  | idle (h : s.fsm = .idle) : Moves s s
  | fillByte (h : s.fsm = .filling) (room : s.wr.toNat < s.dstLen.toNat)
      (inside : s.wr.toNat < s.config.dstCap.val) : Moves s (stored (fillvField s.cmd) 1 s)
  | fillEnd (h : s.fsm = .filling) (full : ¬ s.wr.toNat < s.dstLen.toNat) : Moves s (finish s)
  | rawByte (h : s.fsm = .raw) (input : s.rd.toNat < s.srcLen.toNat) (readable : s.readAddr < s.config.srcCap.val)
      (room : s.wr.toNat < s.dstLen.toNat) (inside : s.wr.toNat < s.config.dstCap.val) :
      Moves s (stored (s.srcByte s.readAddr) 4 (consume s))
  | rawFull (h : s.fsm = .raw) (input : s.rd.toNat < s.srcLen.toNat) (readable : s.readAddr < s.config.srcCap.val)
      (full : ¬ s.wr.toNat < s.dstLen.toNat) : Moves s (raiseError .bufferTooSmall (consume s))
  | rawEnd (h : s.fsm = .raw) (out : ¬ s.rd.toNat < s.srcLen.toNat) : Moves s (finish s)
  | control (h : s.fsm = .awaitCtrl) (input : s.rd.toNat < s.srcLen.toNat)
      (readable : s.readAddr < s.config.srcCap.val) :
      Moves s (openPacket (decodeControl (s.srcByte s.readAddr)) s)
  | streamEnd (h : s.fsm = .awaitCtrl) (out : ¬ s.rd.toNat < s.srcLen.toNat) : Moves s (finish s)
  | noop (h : s.fsm = .emitNoop) : Moves s (noopStep s)
  | litByte (h : s.fsm = .lit) (input : s.rd.toNat < s.srcLen.toNat) (readable : s.readAddr < s.config.srcCap.val)
      (room : s.wr.toNat < s.dstLen.toNat) (inside : s.wr.toNat < s.config.dstCap.val) :
      Moves s (countDown (stored (s.srcByte s.readAddr) 4 (consume s)))
  | litFull (h : s.fsm = .lit) (input : s.rd.toNat < s.srcLen.toNat) (readable : s.readAddr < s.config.srcCap.val)
      (full : ¬ s.wr.toNat < s.dstLen.toNat) : Moves s (raiseError .bufferTooSmall (consume s))
  | litShort (h : s.fsm = .lit) (out : ¬ s.rd.toNat < s.srcLen.toNat) : Moves s (raiseError .truncatedInput s)
  | fetchValue (h : s.fsm = .repFetch) (input : s.rd.toNat < s.srcLen.toNat)
      (readable : s.readAddr < s.config.srcCap.val) :
      Moves s { consume s with repv := s.srcByte s.readAddr, fsm := .repEmit }
  | fetchShort (h : s.fsm = .repFetch) (out : ¬ s.rd.toNat < s.srcLen.toNat) :
      Moves s (raiseError .truncatedInput s)
  | repByte (h : s.fsm = .repEmit) (room : s.wr.toNat < s.dstLen.toNat)
      (inside : s.wr.toNat < s.config.dstCap.val) : Moves s (countDown (stored s.repv 4 s))
  | repFull (h : s.fsm = .repEmit) (full : ¬ s.wr.toNat < s.dstLen.toNat) :
      Moves s (raiseError .bufferTooSmall s)

theorem microStep_moves {s t : State} (h : microStep s = .next t) : Moves s t := by
  unfold microStep at h
  split at h
  · cases h; exact .idle ‹_›
  · unfold fillStep at h
    split at h
    · obtain ⟨h1, rfl⟩ := store_eq_next.1 h
      exact .fillByte ‹_› (by simp_all) h1
    · cases h; exact .fillEnd ‹_› (by simp_all)
  · unfold rawStep at h
    split at h
    · obtain ⟨h1, h2⟩ := withInput_eq_next.1 h
      unfold rawElement emitByte at h2
      split at h2
      · obtain ⟨h3, rfl⟩ := store_eq_next.1 h2
        exact .rawByte ‹_› (by simp_all) h1 (by simp_all) h3
      · cases h2; exact .rawFull ‹_› (by simp_all) h1 (by simp_all)
    · cases h; exact .rawEnd ‹_› (by simp_all)
  · unfold awaitStep at h
    split at h
    · obtain ⟨h1, h2⟩ := withInput_eq_next.1 h
      cases h2; exact .control ‹_› (by simp_all) h1
    · cases h; exact .streamEnd ‹_› (by simp_all)
  · cases h; exact .noop ‹_›
  · unfold litStep at h
    split at h
    · obtain ⟨h1, h2⟩ := withInput_eq_next.1 h
      split at h2
      · obtain ⟨u, h3, h4⟩ := andThen_eq_next.1 h2
        obtain ⟨h5, rfl⟩ := store_eq_next.1 h3
        cases h4
        exact .litByte ‹_› (by simp_all) h1 (by simp_all) h5
      · cases h2; exact .litFull ‹_› (by simp_all) h1 (by simp_all)
    · cases h; exact .litShort ‹_› (by simp_all)
  · unfold repFetchStep at h
    split at h
    · obtain ⟨h1, h2⟩ := withInput_eq_next.1 h
      cases h2; exact .fetchValue ‹_› (by simp_all) h1
    · cases h; exact .fetchShort ‹_› (by simp_all)
  · unfold repEmitStep at h
    split at h
    · obtain ⟨u, h3, h4⟩ := andThen_eq_next.1 h
      obtain ⟨h5, rfl⟩ := store_eq_next.1 h3
      cases h4
      exact .repByte ‹_› (by simp_all) h5
    · cases h; exact .repFull ‹_› (by simp_all)

/-- A micro-step is one of its moves, both ways: Moves is exactly microStep. -/
theorem moves_iff {s t : State} : Moves s t ↔ microStep s = .next t := by
  refine ⟨fun h => ?_, microStep_moves⟩
  cases h <;>
    simp_all [microStep, fillStep, rawStep, awaitStep, litStep, repFetchStep, repEmitStep, withInput, store,
      rawElement, emitByte, stored, consume]

theorem store_not_refused (b : Byte) (k : Word) (s : State) (r : Refusal) : store b k s ≠ .refused r := by
  unfold store
  split <;> simp

theorem withInput_not_refused {s : State} {f : Byte → Result} {r : Refusal} (h : ∀ b, f b ≠ .refused r) :
    withInput s f ≠ .refused r := by
  unfold withInput
  split
  · exact h _
  · simp

theorem andThen_not_refused {o : Result} {f : State → Result} {r : Refusal} (ho : o ≠ .refused r)
    (hf : ∀ s, f s ≠ .refused r) : andThen o f ≠ .refused r := by
  cases o with
  | next s => exact hf s
  | fault e => simp
  | refused e => simpa using ho

/-- A micro-step is never refused. -/
theorem microStep_not_refused (s : State) (r : Refusal) : microStep s ≠ .refused r := by
  have emit : ∀ b u, emitByte b u ≠ .refused r := fun b u => by
    unfold emitByte
    split
    · exact store_not_refused _ _ _ _
    · simp
  unfold microStep
  split
  · simp
  · unfold fillStep; split
    · exact store_not_refused _ _ _ _
    · simp
  · unfold rawStep; split
    · exact withInput_not_refused fun b => emit b _
    · simp
  · unfold awaitStep; split
    · exact withInput_not_refused fun b => by simp
    · simp
  · simp
  · unfold litStep; split
    · refine withInput_not_refused fun b => ?_
      split
      · exact andThen_not_refused (store_not_refused _ _ _ _) fun u => by simp
      · simp
    · simp
  · unfold repFetchStep; split
    · exact withInput_not_refused fun b => by simp
    · simp
  · unfold repEmitStep; split
    · exact andThen_not_refused (store_not_refused _ _ _ _) fun u => by simp
    · simp

/-! A run of micro-steps. -/

/-- What every micro-step keeps, every run keeps. -/
theorem runEngine_keeps {P : State → Prop} (step : ∀ s t, P s → Moves s t → P t) {stop : Fsm → Bool} {n : Nat}
    {s t : State} (hs : P s) (h : runEngine stop n s = .next t) : P t := by
  induction n generalizing s with
  | zero => cases h; exact hs
  | succ n ih =>
    simp only [runEngine] at h
    split at h
    · cases h; exact hs
    · obtain ⟨u, h1, h2⟩ := andThen_eq_next.1 h
      exact ih (step s u hs (microStep_moves h1)) h2

theorem runEngine_stop {stop : Fsm → Bool} {n : Nat} {s : State} (h : stop s.fsm = true) :
    runEngine stop n s = .next s := by
  cases n <;> simp [runEngine, h]

theorem runEngine_succ {stop : Fsm → Bool} {n : Nat} {s t : State} (h : stop s.fsm = false)
    (hm : Moves s t) : runEngine stop (n + 1) s = runEngine stop n t := by
  simp [runEngine, h, moves_iff.1 hm]

/-! Acceptance (40_command_interface.md R135). -/

/-- Everything an accepted CMD write can do. -/
theorem acceptCommand_cases (w : Word) (s : State) :
    (∃ i, decodeCommand w = .ok i ∧ s.rangesOk i = true ∧
        acceptCommand w s = startCommand i (latchCommand w s)) ∨
      ((∀ i, decodeCommand w = .ok i → s.rangesOk i = false) ∧
        acceptCommand w s = rejectCommand (latchCommand w s)) := by
  unfold acceptCommand
  cases hd : decodeCommand w with
  | error e => exact .inr ⟨fun j hj => (nomatch hj), rfl⟩
  | ok i =>
    cases hr : s.rangesOk i with
    | true => exact .inl ⟨i, rfl, hr, by simp [hr]⟩
    | false => exact .inr ⟨fun j hj => by cases hj; exact hr, by simp [hr]⟩

/-- Everything a whole command can do: it is ignored, or it is accepted and run (40_command_interface.md R130). -/
theorem runCommand_cases {i : Instr} {s t : State} (h : runCommand i s = .next t) :
    (s.status.busy = true ∧ t = s) ∨
      (s.status.busy = false ∧
        runEngine commandEnded (commandBound (acceptCommand (commandWord i) s)) (acceptCommand (commandWord i) s)
          = .next t) := by
  unfold runCommand at h
  split at h
  · cases h; exact .inl ⟨‹_›, rfl⟩
  · exact .inr ⟨by simp_all, h⟩

end Sys2Proof.Machine
end

