-- ==== Sys2Proof/Laws/Agents.lean ====
section
/-! SUPPORT. The host's operations and the step, one lemma for each that says everything it can do, and the facts
that an accepted command rests on. -/

namespace Sys2Proof.Machine

/-! Commands. -/

/-- Every command checks that the buffer fits DST (40_command_interface.md R134). -/
theorem rangesOk_buffer {i : Instr} {s : State} (h : s.rangesOk i = true) :
    s.dstLen.toNat ≤ s.config.dstCap.val := by
  cases i <;> simp_all [State.rangesOk]

/-- Every channel command checks that the channel fits SRC (40_command_interface.md R134). -/
theorem rangesOk_channel {i : Instr} {s : State} (h : s.rangesOk i = true) (hm : modeOf i ≠ none) :
    s.srcOff.toNat + s.srcLen.toNat ≤ s.config.srcCap.val := by
  cases i <;> simp_all [State.rangesOk, modeOf]

/-- The check looks at the three length registers and the capacities alone. -/
theorem rangesOk_congr {i : Instr} {s t : State} (hc : t.config = s.config) (hd : t.dstLen = s.dstLen)
    (ho : t.srcOff = s.srcOff) (hl : t.srcLen = s.srcLen) : t.rangesOk i = s.rangesOk i := by
  cases i <;> simp [State.rangesOk, State.bufferFits, State.channelFits, hc, hd, ho, hl]

/-- A command word decodes to a command. -/
theorem decodeCommand_format {w : Word} {i : Instr} (h : decodeCommand w = .ok i) : i.format = .cmd32 := by
  unfold decodeCommand at h
  split_ifs at h <;> cases h <;> rfl

/-- exec of a command is the command run whole (40_command_interface.md R130). -/
theorem exec_command {i : Instr} (h : i.format = .cmd32) (s : State) : exec i s = runCommand i s := by
  cases i <;> first | rfl | cases h

/-- A control byte never decodes to a command or a raw byte (30_encoding.md R94). -/
theorem decodeControl_format (c : Byte) : (decodeControl c).format = .pb8 := by
  unfold decodeControl
  split_ifs <;> rfl

/-! The step. -/

theorem step_of_empty {s : State} (h : s.agenda = []) : step s = engineTurn s := by
  simp [step, h]

theorem step_of_turn {s : State} {t : Turn} {rest : List Turn} (h : s.agenda = t :: rest) :
    step s = takeTurn t rest s := by
  simp [step, h]

/-! The host's operations. -/

/-- Everything a register read can do. -/
theorem hostReadReg_eq_next {o w : Nat} {s t : State} :
    hostReadReg o w s = .next t ↔ regAccessOk o w = true ∧ ∃ r, regAt o = some r ∧
      t = { s with draws := s.draws + s.regDraws r, received := s.received ++ [.reg o (s.regValue r)] } := by
  unfold hostReadReg
  split
  · cases h : regAt o with
    | none => simp
    | some r =>
      refine ⟨fun e => ⟨‹_›, r, rfl, ?_⟩, ?_⟩
      · cases e; rfl
      · rintro ⟨-, q, hq, rfl⟩
        cases hq; rfl
  · simp_all

/-- Everything a register write can do. -/
theorem hostWriteReg_eq_next {o w : Nat} {v : Word} {s t : State} :
    hostWriteReg o w v s = .next t ↔ regAccessOk o w = true ∧ ∃ r, regAt o = some r ∧ t = writeRegister r v s := by
  unfold hostWriteReg
  split
  · cases h : regAt o with
    | none => simp
    | some r =>
      refine ⟨fun e => ⟨‹_›, r, rfl, ?_⟩, ?_⟩
      · cases e; rfl
      · rintro ⟨-, q, hq, rfl⟩
        cases hq; rfl
  · simp_all

/-- Everything a RAM write can do: the host duties are met, and the bytes are stored. -/
theorem hostWriteRam_eq_next {ram : Ram} {a w : Nat} {v : Word} {s t : State} :
    hostWriteRam ram a w v s = .next t ↔
      ramAccessOk a w = true ∧ a + w ≤ s.ramCap ram ∧ s.status.busy = false ∧
        t = storeRam ram a (bytesOfWord v w) s := by
  unfold hostWriteRam State.ramInside
  split_ifs <;> simp_all
  exact ⟨Eq.symm, Eq.symm⟩

/-- What every RAM read leaves: the block as it was, whatever was read. -/
theorem hostReadRam_next {ram : Ram} {a w : Nat} {s t : State} (h : hostReadRam ram a w s = .next t) :
    ramAccessOk a w = true ∧ a + w ≤ s.ramCap ram ∧ ∃ n v, t = { s with
      draws := s.draws + n, received := s.received ++ [.ram ram a w v] } := by
  unfold hostReadRam State.ramInside at h
  split_ifs at h <;> simp_all [record]
  · exact ⟨1, _, h.symm⟩
  · exact ⟨0, _, h.symm⟩

/-- Where an address lies in REG alone, the place it names. -/
theorem placesAt_reg {c : Config} {a : Nat} (h : c.regBase ≤ a ∧ a < c.regBase + 32)
    (hs : ¬(c.srcBase ≤ a ∧ a < c.srcBase + c.srcCap.val)) (hd : ¬(c.dstBase ≤ a ∧ a < c.dstBase + c.dstCap.val)) :
    placesAt c a = [.reg (a - c.regBase)] := by
  simp only [placesAt, offsetIn, if_pos h, if_neg hs, if_neg hd]
  rfl

/-- Where an address lies in SRC alone, the place it names. -/
theorem placesAt_src {c : Config} {a : Nat} (hr : ¬(c.regBase ≤ a ∧ a < c.regBase + 32))
    (h : c.srcBase ≤ a ∧ a < c.srcBase + c.srcCap.val) (hd : ¬(c.dstBase ≤ a ∧ a < c.dstBase + c.dstCap.val)) :
    placesAt c a = [.ram .src (a - c.srcBase)] := by
  simp only [placesAt, offsetIn, if_neg hr, if_pos h, if_neg hd]
  rfl

/-- Where an address lies in DST alone, the place it names. -/
theorem placesAt_dst {c : Config} {a : Nat} (hr : ¬(c.regBase ≤ a ∧ a < c.regBase + 32))
    (hs : ¬(c.srcBase ≤ a ∧ a < c.srcBase + c.srcCap.val)) (h : c.dstBase ≤ a ∧ a < c.dstBase + c.dstCap.val) :
    placesAt c a = [.ram .dst (a - c.dstBase)] := by
  simp only [placesAt, offsetIn, if_neg hr, if_neg hs, if_pos h]
  rfl

/-- Where an address lies in no window, it names no place. -/
theorem placesAt_none {c : Config} {a : Nat} (hr : ¬(c.regBase ≤ a ∧ a < c.regBase + 32))
    (hs : ¬(c.srcBase ≤ a ∧ a < c.srcBase + c.srcCap.val)) (hd : ¬(c.dstBase ≤ a ∧ a < c.dstBase + c.dstCap.val)) :
    placesAt c a = [] := by
  simp only [placesAt, offsetIn, if_neg hr, if_neg hs, if_neg hd]
  rfl

/-- Every place an address names lies in a window, at the address's distance from its base. -/
theorem mem_placesAt {c : Config} {a : Nat} {p : Place} (h : p ∈ placesAt c a) :
    (p = .reg (a - c.regBase) ∧ c.regBase ≤ a ∧ a < c.regBase + 32) ∨
      (p = .ram .src (a - c.srcBase) ∧ c.srcBase ≤ a ∧ a < c.srcBase + c.srcCap.val) ∨
      (p = .ram .dst (a - c.dstBase) ∧ c.dstBase ≤ a ∧ a < c.dstBase + c.dstCap.val) := by
  simp only [placesAt, offsetIn, List.mem_append, Option.mem_toList, Option.map_eq_some_iff] at h
  obtain (⟨x, h1, rfl⟩ | ⟨x, h1, rfl⟩) | ⟨x, h1, rfl⟩ := h <;> split_ifs at h1 <;> cases h1 <;> simp_all

/-- Everything an access through the host's map can answer as a next state: the access of the one place. -/
theorem atPlace_eq_next {a : Nat} {f : Place → State → Result} {s t : State} :
    atPlace a f s = .next t ↔ ∃ p, placesAt s.config a = [p] ∧ f p s = .next t := by
  unfold atPlace
  split <;> simp_all

/-- An access through the host's map faults outside the block, or as the access of the one place does. -/
theorem atPlace_eq_fault {a : Nat} {f : Place → State → Result} {s : State} {e : Fault} :
    atPlace a f s = .fault e ↔
      (placesAt s.config a = [] ∧ e = .hostOutsideWindow) ∨ ∃ p, placesAt s.config a = [p] ∧ f p s = .fault e := by
  unfold atPlace
  split <;> simp_all
  exact ⟨Eq.symm, Eq.symm⟩

/-- A whole CMD write: ignored, run, or rejected at acceptance. -/
theorem hostCommand_cases (w : Word) (s : State) :
    (s.status.busy = true ∧ hostCommand w s = .next s) ∨
      (s.status.busy = false ∧ ∃ i, decodeCommand w = .ok i ∧ hostCommand w s = exec i s) ∨
      (s.status.busy = false ∧ (∀ i, decodeCommand w ≠ .ok i) ∧ hostCommand w s = .next (acceptCommand w s)) := by
  unfold hostCommand
  cases hb : s.status.busy
  · cases hd : decodeCommand w <;> simp [decode, hd]
  · simp

/-- The number of bytes read is the number asked for. -/
@[simp] theorem ramBytes_length (s : State) (ram : Ram) (a n : Nat) : (s.ramBytes ram a n).length = n := by
  induction n generalizing a with
  | zero => rfl
  | succ n ih => simp [State.ramBytes, ih]

/-- The k-th byte read is the one the RAM holds at a + k. -/
theorem ramBytes_getElem? (s : State) (ram : Ram) (a n k : Nat) :
    (s.ramBytes ram a n)[k]? = if k < n then some (s.ramByte ram (a + k)) else none := by
  induction n generalizing a k with
  | zero => simp [State.ramBytes]
  | succ n ih =>
    cases k with
    | zero => simp [State.ramBytes]
    | succ k =>
      simp only [State.ramBytes, List.getElem?_cons_succ, ih, Nat.succ_lt_succ_iff]
      rw [Nat.add_right_comm a 1 k, Nat.add_assoc]

/-! Byte order (20_memory.md R62). -/

/-- A word made of bytes, bit by bit: byte j / 8 holds bit j. -/
theorem wordOfBytes_getLsbD (bs : List Byte) {j : Nat} (h : j < 32) :
    (wordOfBytes bs).getLsbD j = ((bs[j / 8]?).getD 0).getLsbD (j % 8) := by
  induction bs generalizing j with
  | nil => simp [wordOfBytes]
  | cons b bs ih =>
    simp only [wordOfBytes, BitVec.getLsbD_or, BitVec.getLsbD_shiftLeft, BitVec.getLsbD_setWidth]
    by_cases hj : j < 8
    · simp [h, hj, Nat.div_eq_of_lt hj, Nat.mod_eq_of_lt hj]
    · obtain ⟨i, rfl⟩ : ∃ i, j = i + 8 := ⟨j - 8, by omega⟩
      simp [ih (show i < 32 by omega), h, Nat.add_div_right]

/-- Byte k of a word made of bytes is the k-th of them. -/
theorem wordOfBytes_extract (bs : List Byte) {k : Nat} (h : k < 4) :
    (wordOfBytes bs).extractLsb' (8 * k) 8 = (bs[k]?).getD 0 := by
  refine BitVec.eq_of_getLsbD_eq fun i hi => ?_
  rw [BitVec.getLsbD_extractLsb', wordOfBytes_getLsbD bs (by omega), Nat.mul_add_div (by decide),
    Nat.mul_add_mod, Nat.div_eq_of_lt hi, Nat.mod_eq_of_lt hi]
  simp [hi]

/-- A word made of n bytes has nothing above them. -/
theorem wordOfBytes_lt (bs : List Byte) : (wordOfBytes bs).toNat < 2 ^ (8 * bs.length) := by
  induction bs with
  | nil => simp [wordOfBytes]
  | cons b bs ih =>
    have hp : 2 ^ (8 * (b :: bs).length) = 2 ^ (8 * bs.length) * 256 := by
      rw [List.length_cons, Nat.mul_succ, Nat.pow_add]
    rw [wordOfBytes, BitVec.toNat_or]
    refine Nat.or_lt_two_pow ?_ ?_
    · rw [BitVec.toNat_shiftLeft, Nat.shiftLeft_eq, hp]
      exact (Nat.mod_le _ _).trans_lt (Nat.mul_lt_mul_of_pos_right ih (by decide))
    · rw [BitVec.toNat_setWidth, hp]
      have := b.isLt
      have := Nat.two_pow_pos (8 * bs.length)
      exact (Nat.mod_le _ _).trans_lt (by omega)

/-- The low bytes of a word, by place. -/
theorem bytesOfWord_getElem? (v : Word) (n k : Nat) :
    (bytesOfWord v n)[k]? = if k < n then some (v.extractLsb' (8 * k) 8) else none := by
  induction n generalizing v k with
  | zero => simp [bytesOfWord]
  | succ n ih =>
    cases k with
    | zero => simp [bytesOfWord]
    | succ k =>
      simp only [bytesOfWord, List.getElem?_cons_succ, ih, Nat.succ_lt_succ_iff]
      congr 2
      refine BitVec.eq_of_getLsbD_eq fun i hi => ?_
      simp [hi, Nat.mul_succ, Nat.add_comm, Nat.add_left_comm]

@[simp] theorem bytesOfWord_length (v : Word) (n : Nat) : (bytesOfWord v n).length = n := by
  induction n generalizing v with
  | zero => rfl
  | succ n ih => simp [bytesOfWord, ih]

/-- The low bytes of a word, as a word: they are kept, by place. -/
theorem lowBytes_extract {w k : Nat} (v : Word) (h : k < w) (hw : w ≤ 4) :
    (lowBytes w v).extractLsb' (8 * k) 8 = v.extractLsb' (8 * k) 8 := by
  rw [lowBytes, wordOfBytes_extract _ (by omega), bytesOfWord_getElem?, if_pos h]
  rfl

/-- The low bytes of a word, as a word: nothing stands above them. -/
theorem lowBytes_lt (w : Nat) (v : Word) : (lowBytes w v).toNat < 2 ^ (8 * w) := by
  simpa [lowBytes] using wordOfBytes_lt (bytesOfWord v w)

end Sys2Proof.Machine
end

