-- ==== Sys2Proof/Laws/PerInstr.lean ====
section
/-! SUPPORT. Facts about every instruction as syntax, one lemma per constructor. -/

namespace Sys2Proof.Laws.Encoding

/-- An instruction is encoded in the format of its row of the opcode table (30_encoding.md R90), and only a stream
element takes bytes of a stream. -/
def Statement (i : Instr) : Prop :=
  match encode i with
  | .cmd32 _ => i.format = .cmd32 ∧ i.streamLength = 0
  | .pb8 _ => i.format = .pb8 ∧ 1 ≤ i.streamLength
  | .raw8 _ => i.format = .raw8 ∧ i.streamLength = 1

theorem fill (v : Byte) : Statement (.fill v) := ⟨rfl, rfl⟩
theorem unpackRaw (s : Slot) : Statement (.unpackRaw s) := ⟨rfl, rfl⟩
theorem unpackPb (s : Slot) : Statement (.unpackPb s) := ⟨rfl, rfl⟩
theorem dispatch (s : Slot) (m : Mode) : Statement (.dispatch s m) := ⟨rfl, rfl⟩
theorem pbNop : Statement .pbNop := ⟨rfl, Nat.le_refl 1⟩
theorem pbLit (n : BitVec 7) : Statement (.pbLit n) := ⟨rfl, Nat.le_add_left 1 _⟩
theorem pbRep (c : Byte) : Statement (.pbRep c) := ⟨rfl, Nat.le_succ 1⟩
theorem rawByte (b : Byte) : Statement (.rawByte b) := ⟨rfl, rfl⟩

end Sys2Proof.Laws.Encoding

namespace Sys2Proof.Laws.Counts

/-- A well-formed instruction takes at most 129 bytes of a stream and writes at most 128 (30_encoding.md R98). -/
def Statement (i : Instr) : Prop :=
  i.wellFormed = true → i.streamLength ≤ longestElement ∧ i.outputCount ≤ 128

theorem fill (v : Byte) : Statement (.fill v) := fun _ => ⟨Nat.zero_le _, Nat.zero_le _⟩
theorem unpackRaw (s : Slot) : Statement (.unpackRaw s) := fun _ => ⟨Nat.zero_le _, Nat.zero_le _⟩
theorem unpackPb (s : Slot) : Statement (.unpackPb s) := fun _ => ⟨Nat.zero_le _, Nat.zero_le _⟩
theorem dispatch (s : Slot) (m : Mode) : Statement (.dispatch s m) := fun _ => ⟨Nat.zero_le _, Nat.zero_le _⟩
theorem pbNop : Statement .pbNop := fun _ => ⟨Nat.le_of_ble_eq_true rfl, Nat.zero_le _⟩
theorem pbLit (n : BitVec 7) : Statement (.pbLit n) := fun _ => by
  simp only [Instr.streamLength, Instr.outputCount, literalCount, longestElement]
  omega
theorem pbRep (c : Byte) : Statement (.pbRep c) := fun h => by
  simp only [Instr.wellFormed, decide_eq_true_eq] at h
  simp only [Instr.streamLength, Instr.outputCount, repeatCount, longestElement]
  omega
theorem rawByte (b : Byte) : Statement (.rawByte b) := fun _ =>
  ⟨Nat.le_of_ble_eq_true rfl, Nat.le_of_ble_eq_true rfl⟩

end Sys2Proof.Laws.Counts
end

