-- ==== Sys2Proof/Tests/Slice0.lean ====
section
/-! SUPPORT. Tests against the vectors of spec/95_test_vectors.md (the id stands in each docstring) and against words
written out from the encodings, and for every obligation with hypotheses a concrete state that meets them. -/

namespace Sys2Proof.Tests

open Sys2Proof Sys2Proof.Machine

/-! ## Helpers -/

/-- Two RAMs of 64 bytes, SRC at 0, DST at 64 and REG at 128 of the host map. -/
def small : Config := ⟨⟨64, by decide⟩, ⟨64, by decide⟩, 128, 0, 64⟩

/-- After reset, with a channel at SRC_OFF = 0 and DST_LEN = m; DST lists only what a command writes. -/
def ready (channel : List Byte) (m : Nat) : State :=
  { State.resetWith small with
    src := Memory.writeBytes [] 0 channel
    srcLen := BitVec.ofNat 32 channel.length
    dstLen := BitVec.ofNat 32 m }

/-- The step that runs the command of a word whole. -/
def runWord (w : Word) (s : State) : Result := step { s with agenda := [.command w] }

/-- Just after a CMD write of a word. -/
def started (w : Word) (channel : List Byte) (m : Nat) : State := acceptCommand w (ready channel m)

/-- The state with one host operation to come. -/
def asks (t : Turn) (s : State) : State := { s with agenda := [t] }

/-- Whether a result is an idle state with this STATUS, RD and WR and these bytes of DST written. -/
def ends (r : Result) (status rd wr : Word) (written : Memory) : Bool :=
  match r with
  | .next t => t.fsm == .idle && t.status.word == status && t.rd == rd && t.wr == wr && t.dst == written
  | .fault _ => false
  | .refused _ => false

/-- Whether a result is a state that awaits the next packet, with this RD and WR and these bytes of DST written. -/
def awaits (r : Result) (rd wr : Word) (written : Memory) : Bool :=
  match r with
  | .next t => t.fsm == .awaitCtrl && t.status.word == 1 && t.rd == rd && t.wr == wr && t.dst == written
  | .fault _ => false
  | .refused _ => false

/-- What a result's host has read last. -/
def answer : Result → Option Received
  | .next t => t.received.getLast?
  | .fault _ => none
  | .refused _ => none

/-- Whether a result is a next state with a property. -/
def nextWith (p : State → Bool) : Result → Bool
  | .next t => p t
  | .fault _ => false
  | .refused _ => false

/-- Whether a result is a next state. -/
def goesOn : Result → Bool := nextWith (fun _ => true)

/-! ## WellFormed -/

/-- 30_encoding.md R94: 0x80 is PB.NOP's control byte. -/
theorem test_pbRep_nop_byte_refused : (Instr.pbRep 0x80).wellFormed = false := by decide
/-- 30_encoding.md R94: 0x00..0x7F are PB.LIT's. -/
theorem test_pbRep_literal_byte_refused : (Instr.pbRep 0x7F).wellFormed = false := by decide
theorem test_pbRep_zero_refused : (Instr.pbRep 0x00).wellFormed = false := by decide
/-- 30_encoding.md R94: 0x81..0xFF are PB.REP's. -/
theorem test_pbRep_bounds_accepted :
    (Instr.pbRep 0x81).wellFormed = true ∧ (Instr.pbRep 0xFF).wellFormed = true := by decide

/-! ## Decoding, from words written out bit by bit (30_encoding.md R92, R94, R101) -/

/-- FILL: 16 zeros, FILLV = 0xAB, 4 zeros, OP = 1. -/
theorem test_decode_fill : decode (.cmd32 0b00000000000000001010101100000001) = .ok (.fill 0xAB) := by decide
/-- UNPACK.RAW: 26 zeros, SLOT = 1, OP = 2. -/
theorem test_decode_unpackRaw : decode (.cmd32 0b00000000000000000000000000010010) = .ok (.unpackRaw 1) := by decide
/-- UNPACK.PB: 26 zeros, SLOT = 2, OP = 3. -/
theorem test_decode_unpackPb : decode (.cmd32 0b00000000000000000000000000100011) = .ok (.unpackPb 2) := by decide
/-- DISPATCH: 25 zeros, MODE = 1, SLOT = 2, OP = 4: the word of program P1. -/
theorem test_decode_dispatch_packBits :
    decode (.cmd32 0b00000000000000000000000001100100) = .ok (.dispatch 2 .packBits) := by decide
/-- DISPATCH with MODE = 0 and SLOT = 3. -/
theorem test_decode_dispatch_raw :
    decode (.cmd32 0b00000000000000000000000000110100) = .ok (.dispatch 3 .raw) := by decide
/-- PB.NOP: 10000000. -/
theorem test_decode_pbNop : decode (.pb8 0b10000000) = .ok .pbNop := by decide
/-- PB.LIT: 0nnnnnnn with n = 127. -/
theorem test_decode_pbLit : decode (.pb8 0b01111111) = .ok (.pbLit 127) := by decide
/-- PB.REP: 1ccccccc but 10000000, at both ends. -/
theorem test_decode_pbRep :
    decode (.pb8 0b10000001) = .ok (.pbRep 0x81) ∧ decode (.pb8 0b11111111) = .ok (.pbRep 0xFF) := by decide
/-- RAW.BYTE: any byte is data. -/
theorem test_decode_rawByte : decode (.raw8 0b10000000) = .ok (.rawByte 0x80) := by decide
/-- V-I1, V-I2: OP 0 and OP 5 are reserved. -/
theorem test_reserved_op_rejected :
    decode (.cmd32 0x00000000) = .error .reservedOp ∧ decode (.cmd32 0x00000005) = .error .reservedOp ∧
      decode (.cmd32 0x0000000F) = .error .reservedOp := by decide
/-- V-F5, V-I3, V-I4, V-I5, V-D6: a reserved or unused field that is not zero. -/
theorem test_field_not_zero_rejected :
    decode (.cmd32 0x00000011) = .error .fieldNotZero ∧ decode (.cmd32 0x00000042) = .error .fieldNotZero ∧
      decode (.cmd32 0x00000082) = .error .fieldNotZero ∧ decode (.cmd32 0x00010003) = .error .fieldNotZero ∧
      decode (.cmd32 0x00000104) = .error .fieldNotZero := by decide
/-- 30_encoding.md R96: the counts of the source's examples, -1 and -6 and -127. -/
theorem test_repeat_counts :
    repeatCount 0xFF = 2 ∧ repeatCount 0xFA = 7 ∧ repeatCount 0x81 = 128 := by decide
theorem test_decodeTableWord :
    decodeTableWord 32 0x64 = some (.dispatch 2 .packBits) ∧ decodeTableWord 8 0xFD = some (.pbRep 0xFD) ∧
      decodeTableWord 32 0x10003 = none := by decide

/-! ## One step of each instruction -/

/-- V-F1. -/
theorem test_fill_writes_buffer : ends (runWord 0x0000FF01 (ready [] 8)) 0x2 0 8
    ((List.range 8).map (fun a => (a, 0xFF))) = true := by decide
/-- V-F6: FILL does not check SRC. -/
theorem test_fill_ignores_channel :
    ends (runWord 0x00000101 { ready [] 4 with srcOff := 0xFFFFFFFF, srcLen := 0xFFFFFFFF }) 0x2 0 4
      [(0, 1), (1, 1), (2, 1), (3, 1)] = true := by decide
/-- V-R3: no room for the second byte, which is consumed. -/
theorem test_unpackRaw_too_small : ends (runWord 0x00000032 (ready [0x11, 0x22] 4)) 0x14 2 7
    [(3, 0x11)] = true := by decide
/-- V-R4: M = 5 is enough for two bytes at slot 0. -/
theorem test_unpackRaw_fits : ends (runWord 0x00000002 (ready [0x11, 0x22] 5)) 0x2 2 8
    [(0, 0x11), (4, 0x22)] = true := by decide
/-- V-S6: the source's offset property. -/
theorem test_unpackPb_stream : ends (runWord 0x00000023 (ready [0x01, 0x07, 0xF0, 0x80, 0xFD, 0x04] 24)) 0x2 6 26
    [(2, 0x07), (6, 0xF0), (10, 0x04), (14, 0x04), (18, 0x04), (22, 0x04)] = true := by decide
/-- V-L5: both input and output are short, and the missing input wins. -/
theorem test_unpackPb_both_short : ends (runWord 0x00000003 (ready [0x03, 0xAA] 4)) 0x24 2 4
    [(0, 0xAA)] = true := by decide
/-- V-D1. -/
theorem test_dispatch_packBits : ends (runWord 0x00000044 (ready [0xFF, 0x05] 8)) 0x2 2 8
    [(0, 0x05), (4, 0x05)] = true := by decide
/-- V-D2: the same bytes as data. -/
theorem test_dispatch_raw : ends (runWord 0x00000004 (ready [0xFF, 0x05] 8)) 0x2 2 8
    [(0, 0xFF), (4, 0x05)] = true := by decide
/-- V-N2: the first of three no-ops at slot 3. -/
theorem test_pbNop_consumes : awaits (step (started 0x00000033 [0x80, 0x80, 0x80] 4)) 1 3 [] = true := by decide
/-- V-L6: 0x80 and 0xFF are data in a literal run. -/
theorem test_pbLit_copies : awaits (step (started 0x00000003 [0x01, 0x80, 0xFF] 8)) 3 8
    [(0, 0x80), (4, 0xFF)] = true := by decide
/-- V-L3: the third byte is consumed and has no room. -/
theorem test_pbLit_too_small : ends (step (started 0x00000003 [0x02, 0xAA, 0xBB, 0xCC] 8)) 0x14 4 8
    [(0, 0xAA), (4, 0xBB)] = true := by decide
/-- V-P4: two of four written. -/
theorem test_pbRep_too_small : ends (step (started 0x00000013 [0xFD, 0x07] 8)) 0x14 2 9
    [(1, 0x07), (5, 0x07)] = true := by decide
/-- V-P3: the missing value wins over the full buffer. -/
theorem test_pbRep_truncated : ends (step (started 0x00000003 [0xFE] 0)) 0x24 1 0 [] = true := by decide
/-- V-R6: 0x80 is data. -/
theorem test_rawByte_written :
    nextWith (fun t => t.rd == 1 && t.wr == 4 && t.dst == [(0, 0x80)]) (step (started 0x00000002 [0x80] 4)) = true := by
  decide
/-- V-R5. -/
theorem test_rawByte_too_small : ends (step (started 0x00000012 [0x11] 0)) 0x14 1 1 [] = true := by decide

/-! ## The command interface, the RAMs and the pseudo-commands -/

/-- V-I8: the sum is 2^32, not a wrapped 0. -/
theorem test_ranges_do_not_wrap :
    ends (step (asks (.writeReg 0 4 0x00000002) { ready [] 4 with srcOff := 0xFFFFFFFF, srcLen := 1 })) 0x34 0 0
      [] = true := by decide
/-- V-I7: the empty slice at the top of SRC is legal. -/
theorem test_empty_channel_at_the_top :
    ends (runWord 0x00000003 { ready [] 4 with srcOff := 64 }) 0x2 0 0 [] = true := by decide
/-- V-W2: ERRCODE is cleared with ERR. -/
theorem test_status_write_clears_error :
    nextWith (fun t => t.status.word == 0)
      (step (asks (.writeReg 4 4 0x4) { ready [] 4 with status := Status.failed .truncatedInput })) = true := by decide
/-- V-W3: DONE was 0, and ERR is not written. -/
theorem test_status_write_of_done_keeps_error :
    nextWith (fun t => t.status.word == 0x24)
      (step (asks (.writeReg 4 4 0x2) { ready [] 4 with status := Status.failed .truncatedInput })) = true := by decide
/-- V-B1: a CMD write while BUSY = 1 is ignored. -/
theorem test_busy_command_write_ignored :
    nextWith (fun t => t.cmd == 0x00000001 && t.fsm == .filling)
      (step (asks (.writeReg 0 4 0x00000201) (started 0x00000001 [] 8))) = true := by decide
/-- V-B3: STATUS reads 1 while a command runs. -/
theorem test_busy_status_read :
    answer (step (asks (.readReg 4 4) (started 0x00000001 [] 8))) = some (.reg 4 1) := by decide
/-- 20_memory.md R62: the least significant byte at the lowest address. -/
theorem test_host_write_is_little_endian :
    nextWith (fun t => t.src == [(4, 0x44), (5, 0x33), (6, 0x22), (7, 0x11)])
      (step (asks (.writeRam .src 4 4 0x11223344) (ready [] 0))) = true := by decide
/-- 20_memory.md R67: address SRC_BASE + 4 of the host map is SRC[4], DST_BASE is DST[0]. -/
theorem test_host_map_write :
    nextWith (fun t => t.src == [(4, 0x44)] && t.dst == [])
        (step (asks (.writeAt 4 1 0x44) (ready [] 0))) = true ∧
      nextWith (fun t => t.src == [] && t.dst == [(0, 0x44)])
        (step (asks (.writeAt 64 1 0x44) (ready [] 0))) = true := by decide
/-- An address in two windows has no meaning (log 11). -/
theorem test_host_map_overlap :
    step (asks (.readAt 4 1) { ready [] 0 with config := ⟨⟨64, by decide⟩, ⟨64, by decide⟩, 128, 0, 0⟩ })
      = .refused .hostAddressAmbiguous := by rfl
/-- V-C4. -/
theorem test_call_grayA :
    callResult (.grayA 2 ⟨0, [0x10, 0x20], .raw⟩ ⟨2, [0xFF, 0x80], .packBits⟩)
      = .ok [0x10, 0x10, 0x10, 0x80, 0x20, 0x20, 0x20, 0x80] := by decide
/-- V-C10: slot 1 fails before slot 2. -/
theorem test_call_first_error :
    callResult (.rgba 1 ⟨0, [0x11], .raw⟩ ⟨1, [0x05], .packBits⟩ ⟨2, [0x01, 0x02], .raw⟩ ⟨4, [0x44], .raw⟩)
      = .error 2 := by decide
/-- The step after reset runs a placed word (log 15). -/
theorem test_placed_word_runs_first :
    ends (step (State.reset.withFetchWord 32 0x00000003)) 0x2 0 0 [] = true ∧
      nextWith (fun t => t.rd == 2 && t.fsm == .idle) (step (State.reset.withFetchWord 8 0xFD)) = true := by decide

/-! ## Witnesses: states that meet the invariant -/

/-- The invariant of a state with no command running, from checks that decide. -/
theorem idle_inv (s : State) (h : s.src.wf ∧ s.dst.wf ∧ (∀ c ∈ s.src, c.1 < s.config.srcCap.val) ∧
    (∀ c ∈ s.dst, c.1 < s.config.dstCap.val) ∧ s.status = Status.reset ∧ s.fsm = .idle ∧ s.cnt.toNat ≤ 128) :
    s.Inv := by
  obtain ⟨h1, h2, h3, h4, h5, h6, h7⟩ := h
  refine ⟨h1, h2, h3, h4, ?_, ?_, ?_, ?_, h7, ?_⟩ <;> simp_all [Status.reset]

/-- The invariant of a state in which command i runs, from checks that decide. -/
theorem busy_inv (s : State) (i : Instr) (h : s.src.wf ∧ s.dst.wf ∧ (∀ c ∈ s.src, c.1 < s.config.srcCap.val) ∧
    (∀ c ∈ s.dst, c.1 < s.config.dstCap.val) ∧ s.status = Status.started Status.reset ∧ s.fsm ≠ .idle ∧
    s.cnt.toNat ≤ 128 ∧ decodeCommand s.cmd = .ok i ∧ s.rangesOk i = true ∧ runsIn i s.fsm = true ∧
    s.rd.toNat ≤ s.srcLen.toNat ∧ (modeOf i = none → s.rd = 0 ∧ s.wr.toNat ≤ s.dstLen.toNat) ∧
    (modeOf i ≠ none → s.wr.toNat % 4 = slotOf i ∧ s.wr.toNat ≤ s.dstLen.toNat + 3) ∧
    (isCounting s.fsm = true → 1 ≤ s.cnt.toNat)) : s.Inv := by
  obtain ⟨h1, h2, h3, h4, h5, h6, h7, r⟩ := h
  obtain ⟨r1, r2, r3, r4, r5, r6, r7⟩ := r
  refine ⟨h1, h2, h3, h4, ?_, ?_, ?_, ?_, h7, fun _ => ⟨i, r1, r2, r3, r4, r5, r6, r7⟩⟩ <;>
    simp_all [Status.reset, Status.started]

/-- FILL #1 at its start, DST_LEN = 8. -/
abbrev filling : State := started 0x00000101 [] 8

/-- UNPACK.RAW 1 at its start. -/
abbrev rawing : State := started 0x00000012 [0x0A, 0x0B] 8

/-- UNPACK.PB 0 at its start, before a control byte c. -/
abbrev awaiting (c : Byte) : State := started 0x00000003 [c, 0x05] 8

/-- UNPACK.PB 0 inside a run: RD = 1, CNT = 2. -/
abbrev inside (f : Fsm) (channel : List Byte) (m : Nat) : State :=
  { started 0x00000003 channel m with rd := 1, cnt := 2, fsm := f }

theorem filling_inv : filling.Inv := busy_inv _ (.fill 1) (by decide)
theorem rawing_inv : rawing.Inv := busy_inv _ (.unpackRaw 1) (by decide)
theorem awaiting_inv : (awaiting 0x81).Inv := busy_inv _ (.unpackPb 0) (by decide)
theorem ready_inv : (ready [0xFF, 0x05] 8).Inv := idle_inv _ (by decide)

/-! ## Witnesses: encoding -/

theorem witness_ControlBytesHaveThreeClasses :
    (0x80#8).toInt = -128 ∧ 0 ≤ (0x00#8).toInt ∧ 0 ≤ (0x7F#8).toInt ∧
      (-127 ≤ (0x81#8).toInt ∧ (0x81#8).toInt ≤ -1) ∧ (-127 ≤ (0xFF#8).toInt ∧ (0xFF#8).toInt ≤ -1) := by decide
theorem witness_RunCountsDoNotWrap : 0x81 ≤ (0x81#8).toNat ∧ 0x81 ≤ (0xFF#8).toNat := by decide
theorem witness_DecodeEncodeRoundTrip :
    ∀ i ∈ [Instr.fill 0xFF, .unpackRaw 3, .unpackPb 3, .dispatch 3 .packBits, .pbNop, .pbLit 127, .pbRep 0x81,
      .pbRep 0xFF, .rawByte 0xFF], i.wellFormed = true := by decide
theorem witness_EncodeDecodeRoundTrip :
    decode (.cmd32 0x0000FF01) = .ok (.fill 0xFF) ∧ decode (.pb8 0x81) = .ok (.pbRep 0x81) ∧
      decode (.raw8 0xFF) = .ok (.rawByte 0xFF) := by decide

/-! ## Witnesses: reset, invariant, engine -/

theorem witness_ResetAbortsAndClears :
    (asks .reset filling).agenda = [.reset] ∧ filling.status.busy = true := by decide
theorem witness_StepKeepsInvariant :
    (awaiting 0x81).Inv ∧ goesOn (step (awaiting 0x81)) = true ∧ filling.Inv ∧ goesOn (step filling) = true ∧
      rawing.Inv ∧ goesOn (step rawing) = true :=
  ⟨awaiting_inv, by decide, filling_inv, by decide, rawing_inv, by decide⟩
theorem witness_EngineStaysInsideTheRams :
    (asks (.readReg 0x20 4) (ready [] 8)).Inv ∧
      step (asks (.readReg 0x20 4) (ready [] 8)) = .fault .hostOutsideWindow :=
  ⟨idle_inv _ (by decide), rfl⟩
theorem witness_BusyEngineAlwaysMoves : filling.Inv ∧ filling.status.busy = true := ⟨filling_inv, by decide⟩
theorem witness_OnlyCmdWritesStartTheEngine :
    (ready [] 8).fsm = .idle ∧ (ready [] 8).agenda = [] ∧ (asks .engine (ready [] 8)).agenda = [.engine] ∧
      (asks (.writeReg 0 4 0x101) (ready [] 8)).Inv ∧
      nextWith (fun t => t.fsm != .idle) (step (asks (.writeReg 0 4 0x101) (ready [] 8))) = true ∧
      (asks (.writeAt 128 4 0x101) (ready [] 8)).Inv ∧
      nextWith (fun t => t.fsm != .idle) (step (asks (.writeAt 128 4 0x101) (ready [] 8))) = true :=
  ⟨by decide, by decide, by decide, idle_inv _ (by decide), by decide, idle_inv _ (by decide), by decide⟩
theorem witness_CursorsNeverWrap :
    filling.Inv ∧ goesOn (microStep filling) = true ∧ rawing.Inv ∧ goesOn (microStep rawing) = true ∧
      (awaiting 0x81).Inv ∧ goesOn (microStep (awaiting 0x81)) = true :=
  ⟨filling_inv, by decide, rawing_inv, by decide, awaiting_inv, by decide⟩

/-! ## Witnesses: the command interface -/

/-- FILL with DST_LEN = DST_CAP and a channel that does not fit, and the other commands with both ranges full. -/
theorem witness_CmdWriteStartsCommand :
    let s : State := { ready [] 64 with srcOff := 0xFFFFFFFF, srcLen := 1 }
    let u : State := { ready [] 64 with srcOff := 60, srcLen := 4 }
    (asks (.writeReg 0 4 0x101) s).agenda = [.writeReg 0 4 0x101] ∧ s.status.busy = false ∧
      decodeCommand 0x101 = .ok (.fill 1) ∧ s.dstLen.toNat ≤ s.config.dstCap.val ∧ opField 0x101 = 1 ∧
      u.status.busy = false ∧ u.dstLen.toNat ≤ u.config.dstCap.val ∧
      u.srcOff.toNat + u.srcLen.toNat ≤ u.config.srcCap.val ∧ decodeCommand 0x32 = .ok (.unpackRaw 3) ∧
      decodeCommand 0x33 = .ok (.unpackPb 3) ∧ decodeCommand 0x34 = .ok (.dispatch 3 .raw) ∧
      decodeCommand 0x74 = .ok (.dispatch 3 .packBits) := by decide
theorem witness_CmdWriteRejectsIllegal :
    (ready [] 65).status.busy = false ∧ (asks (.writeReg 0 4 5) (ready [] 65)).agenda = [.writeReg 0 4 5] ∧
      (∀ r ∈ commandRows, r.selects 0x00000005 = false) ∧ (∀ r ∈ commandRows, r.selects 0x00000042 = false) ∧
      (ready [] 65).config.dstCap.val < (ready [] 65).dstLen.toNat ∧ opField 0x00000002 ≠ 1 ∧
      (let u : State := { ready [] 4 with srcOff := 64, srcLen := 1 }
       u.config.srcCap.val < u.srcOff.toNat + u.srcLen.toNat) := by decide
theorem witness_RegisterWritesIgnoredWhileBusy :
    filling.status.busy = true ∧
      (∀ o ∈ [0x00, 0x08, 0x0C, 0x10], (asks (.writeReg o 4 7) filling).agenda = [.writeReg o 4 7]) ∧
      (asks (.writeReg 0x04 4 6) filling).Inv := ⟨by decide, by decide, busy_inv _ (.fill 1) (by decide)⟩
theorem witness_LengthRegistersTakeAnyValue :
    ∀ o ∈ [0x08, 0x0C, 0x10],
      (asks (.writeReg o 4 0xFFFFFFFF) (ready [] 0)).agenda = [.writeReg o 4 0xFFFFFFFF] ∧
        (asks (.writeReg o 4 0xFFFFFFFF) filling).agenda = [.writeReg o 4 0xFFFFFFFF] := by decide
theorem witness_StatusWriteAcknowledges :
    (asks (.writeReg 4 4 0x6) { ready [] 0 with status := Status.failed .truncatedInput }).agenda
      = [.writeReg 4 4 0x6] := by decide
theorem witness_CursorWritesIgnored :
    ∀ o ∈ [0x14, 0x18, 0x1C], (asks (.writeReg o 4 5) (ready [] 0)).agenda = [.writeReg o 4 5] ∧
      (o = 0x14 ∨ o = 0x18 ∨ o = 0x1C) := by decide
theorem witness_RegisterReads_idle :
    ∀ o ∈ [0x00, 0x04, 0x08, 0x0C, 0x10, 0x14, 0x18, 0x1C],
      (asks (.readReg o 4) (ready [] 0)).agenda = [.readReg o 4] ∧ (ready [] 0).status.busy = false := by decide
/-- The value of the first STATUS clause, on a state that ended with TruncatedInput. -/
theorem witness_RegisterReads_status :
    let s : State := { ready [] 0 with status := Status.failed .truncatedInput }
    (0x24 : Word).extractLsb' 8 24 = 0 ∧ (0x24 : Word).extractLsb' 4 4 = s.status.errcode ∧
      (0x24 : Word).getLsbD 3 = false ∧ (0x24 : Word).getLsbD 2 = s.status.err ∧
      (0x24 : Word).getLsbD 1 = s.status.done ∧ (0x24 : Word).getLsbD 0 = s.status.busy := by decide
theorem witness_RegisterReads_busy :
    (asks (.readReg 0x04 4) filling).Inv ∧ filling.status.busy = true ∧
      (∀ o ∈ [0x04, 0x14, 0x18], (asks (.readReg o 4) filling).agenda = [.readReg o 4]) :=
  ⟨busy_inv _ (.fill 1) (by decide), by decide, by decide⟩

/-! ## Witnesses: host access to the RAMs -/

/-- Each width at the last place of each RAM. -/
theorem witness_HostRamWritesAreLittleEndian :
    ∀ ram ∈ [Ram.src, Ram.dst], ∀ w ∈ [1, 2, 4],
      (asks (.writeRam ram (64 - w) w 0x11223344) (ready [] 0)).agenda = [.writeRam ram (64 - w) w 0x11223344] ∧
        (ready [] 0).status.busy = false ∧ (w = 1 ∨ w = 2 ∨ w = 4) ∧ (64 - w) % w = 0 ∧
        (64 - w) + w ≤ (ready [] 0).ramCap ram := by decide
/-- The first and last address of each window of the host map, and the first beyond them. -/
theorem witness_HostRamWritesAreLittleEndian_map :
    (∀ x ∈ [128, 159], (small.regBase ≤ x ∧ x < small.regBase + 32) ∧
      ¬(small.srcBase ≤ x ∧ x < small.srcBase + small.srcCap.val) ∧
      ¬(small.dstBase ≤ x ∧ x < small.dstBase + small.dstCap.val)) ∧
    (∀ x ∈ [0, 63], ¬(small.regBase ≤ x ∧ x < small.regBase + 32) ∧
      (small.srcBase ≤ x ∧ x < small.srcBase + small.srcCap.val) ∧
      ¬(small.dstBase ≤ x ∧ x < small.dstBase + small.dstCap.val)) ∧
    (∀ x ∈ [64, 127], ¬(small.regBase ≤ x ∧ x < small.regBase + 32) ∧
      ¬(small.srcBase ≤ x ∧ x < small.srcBase + small.srcCap.val) ∧
      (small.dstBase ≤ x ∧ x < small.dstBase + small.dstCap.val)) ∧
    (¬(small.regBase ≤ 160 ∧ 160 < small.regBase + 32) ∧
      ¬(small.srcBase ≤ 160 ∧ 160 < small.srcBase + small.srcCap.val) ∧
      ¬(small.dstBase ≤ 160 ∧ 160 < small.dstBase + small.dstCap.val)) ∧
    (∀ x ∈ [0, 63, 64, 127, 128, 159, 160],
      (asks (.readAt x 1) (ready [] 0)).agenda = [.readAt x 1] ∧
        (asks (.writeAt x 1 7) (ready [] 0)).agenda = [.writeAt x 1 7]) := by decide
/-- Reads of each width at the last place of each RAM. -/
theorem witness_PixelWordReadsSlotsInOrder_widths :
    ∀ ram ∈ [Ram.src, Ram.dst], ∀ w ∈ [1, 2, 4],
      (asks (.readRam ram (64 - w) w) (ready [] 0)).agenda = [.readRam ram (64 - w) w] ∧
        (ready [] 0).status.busy = false ∧ (w = 1 ∨ w = 2 ∨ w = 4) ∧ (64 - w) % w = 0 ∧
        (64 - w) + w ≤ (ready [] 0).ramCap ram := by decide
theorem witness_PixelWordReadsSlotsInOrder :
    (asks (.readRam .dst (4 * 15) 4) (ready [] 0)).agenda = [.readRam .dst (4 * 15) 4] ∧
      (ready [] 0).status.busy = false ∧ 4 * 15 + 4 ≤ (ready [] 0).config.dstCap.val := by decide
/-- Each width at the last place of each RAM. -/
theorem witness_BusyRamReads :
    ∀ w ∈ [1, 2, 4], filling.status.busy = true ∧ (w = 1 ∨ w = 2 ∨ w = 4) ∧ (64 - w) % w = 0 ∧
      (asks (.readRam .src (64 - w) w) filling).agenda = [.readRam .src (64 - w) w] ∧
      (64 - w) + w ≤ filling.config.srcCap.val ∧
      (asks (.readRam .dst (64 - w) w) filling).agenda = [.readRam .dst (64 - w) w] ∧
      (64 - w) + w ≤ filling.config.dstCap.val := by decide
theorem witness_HostDutiesAreRefused :
    (∀ ram ∈ [Ram.src, Ram.dst],
      (asks (.writeRam ram 60 4 7) filling).agenda = [.writeRam ram 60 4 7] ∧ filling.status.busy = true ∧
        60 % 4 = 0 ∧ 60 + 4 ≤ filling.ramCap ram) ∧
      (∀ p ∈ [(0, 0), (0, 3), (0, 5), (1, 2), (2, 4)],
        (asks (.readRam .src p.1 p.2) filling).agenda = [.readRam .src p.1 p.2] ∧
          (p.2 ≠ 1 ∧ p.2 ≠ 2 ∧ p.2 ≠ 4 ∨ p.1 % p.2 ≠ 0)) ∧
      (∀ p ∈ [(0, 1), (0, 2), (1, 4)],
        (asks (.writeReg p.1 p.2 7) filling).agenda = [.writeReg p.1 p.2 7] ∧ (p.2 ≠ 4 ∨ p.1 % 4 ≠ 0)) := by
  decide
theorem witness_BusyHostAccessesLeaveTheBlock :
    ∀ h ∈ [Turn.readReg 0x14 4, .writeReg 0x10 4 7, .readRam .dst 0 4, .readAt 64 4, .writeAt 136 4 7, .command 0x101],
      (asks h filling).Inv ∧ goesOn (step (asks h filling)) = true := by
  simp only [List.forall_mem_cons, List.not_mem_nil, false_implies, implies_true, and_true]
  exact ⟨⟨busy_inv _ (.fill 1) (by decide), by decide⟩, ⟨busy_inv _ (.fill 1) (by decide), by decide⟩,
    ⟨busy_inv _ (.fill 1) (by decide), by decide⟩, ⟨busy_inv _ (.fill 1) (by decide), by decide⟩,
    ⟨busy_inv _ (.fill 1) (by decide), by decide⟩, ⟨busy_inv _ (.fill 1) (by decide), by decide⟩⟩

/-! ## Witnesses: steps and commands -/

theorem witness_StepRunsTheDecodedInstruction :
    (asks (.command 0x64) (ready [] 0)).agenda = [.command 0x64] ∧ (ready [] 0).status.busy = false ∧
      decode (.cmd32 0x64) = .ok (.dispatch 2 .packBits) ∧
      (let s := awaiting 0x81
       s.agenda = [] ∧ (asks .wait s).agenda = [.wait] ∧ s.status.busy = true ∧ s.rd.toNat < s.srcLen.toNat ∧
         s.srcOff.toNat + s.rd.toNat < s.config.srcCap.val ∧ s.fsm = .awaitCtrl ∧
         decode (.pb8 (s.srcByte (s.srcOff.toNat + s.rd.toNat))) = .ok (.pbRep 0x81)) ∧
      (let s := rawing
       s.agenda = [] ∧ s.rd.toNat < s.srcLen.toNat ∧ s.srcOff.toNat + s.rd.toNat < s.config.srcCap.val ∧
         s.fsm = .raw ∧ decode (.raw8 (s.srcByte (s.srcOff.toNat + s.rd.toNat))) = .ok (.rawByte 0x0A)) := by decide
theorem witness_WaitPollsBusy :
    (asks .wait (ready [] 0)).agenda = [.wait] ∧ (ready [] 0).status.busy = false ∧
      (asks .wait filling).agenda = [.wait] ∧ filling.status.busy = true := by decide
theorem witness_CommandsTurnedAway :
    filling.status.busy = true ∧ (Instr.fill 1).format = .cmd32 ∧
      ((ready [] 65).status.busy = false ∧ (ready [] 65).fsm = .idle ∧
        (ready [] 65).config.dstCap.val < (ready [] 65).dstLen.toNat) ∧
      (let u : State := { ready [] 4 with srcOff := 64, srcLen := 1 }
       u.status.busy = false ∧ u.fsm = .idle ∧ modeOf (.unpackRaw 0) ≠ none ∧
         u.config.srcCap.val < u.srcOff.toNat + u.srcLen.toNat) := by decide
/-- DST_LEN = 0, DST_CAP and DST_CAP + 1, and words with each field that FILL does not use. -/
theorem witness_FillWritesTheWholeBuffer :
    (ready [] 0).status.busy = false ∧ (ready [] 0).dstLen.toNat ≤ (ready [] 0).config.dstCap.val ∧
      (ready [] 64).dstLen.toNat = (ready [] 64).config.dstCap.val ∧
      ((ready [] 65).status.busy = false ∧ (ready [] 65).fsm = .idle ∧
        (ready [] 65).config.dstCap.val < (ready [] 65).dstLen.toNat) ∧
      (opField 0x00000011 = 1 ∧ (0x00000011 : Word).extractLsb' 4 4 ≠ 0) ∧
      (opField 0x80000001 = 1 ∧ (0x80000001 : Word).extractLsb' 16 16 ≠ 0) := by decide
/-- f = SRC_LEN (V-R7), f = SRC_LEN - 1 (V-R3) and f = 0 (V-R5). -/
theorem witness_UnpackRawCopiesAtStrideFour :
    ∀ p ∈ [((3 : Slot), ready [0x11, 0x22] 8, 2), (3, ready [0x11, 0x22] 4, 1), (1, ready [0x11] 0, 0)],
      p.2.1.status.busy = false ∧ p.2.1.dstLen.toNat ≤ p.2.1.config.dstCap.val ∧
        p.2.1.srcOff.toNat + p.2.1.srcLen.toNat ≤ p.2.1.config.srcCap.val ∧
        p.2.1.dstLen.toNat ≤ p.1.toNat + 4 * p.2.2 ∧ (∀ i, i < p.2.2 → p.1.toNat + 4 * i < p.2.1.dstLen.toNat) := by
  decide
theorem witness_UnpackRawCapacity :
    let s := ready [0x11, 0x22] 5
    s.status.busy = false ∧ s.dstLen.toNat ≤ s.config.dstCap.val ∧
      s.srcOff.toNat + s.srcLen.toNat ≤ s.config.srcCap.val ∧
      0 + (s.srcLen.toNat - 1) * 4 + 1 = s.dstLen.toNat := by decide
theorem witness_FillAndRawMicroSteps :
    (filling.fsm = .filling ∧ filling.wr.toNat < filling.dstLen.toNat ∧
      filling.dstLen.toNat ≤ filling.config.dstCap.val) ∧
      (let s := started 0x00000101 [] 0
       s.fsm = .filling ∧ s.wr = s.dstLen) ∧
      (rawing.fsm = .raw ∧ rawing.srcOff.toNat + rawing.srcLen.toNat ≤ rawing.config.srcCap.val ∧
        rawing.rd.toNat < rawing.srcLen.toNat ∧ rawing.wr.toNat < rawing.dstLen.toNat) ∧
      (let s := started 0x00000012 [0x11] 0
       s.fsm = .raw ∧ s.rd.toNat < s.srcLen.toNat ∧ s.dstLen.toNat ≤ s.wr.toNat) ∧
      (let s := started 0x00000022 [] 0
       s.fsm = .raw ∧ s.rd = s.srcLen) := by decide
theorem witness_ChannelCommandsWriteTheirOutput :
    (∀ s ∈ [ready [0x03, 0xAA] 4, ready [0xFF, 0x05] 64, ready [] 0], s.status.busy = false ∧
      s.dstLen.toNat ≤ s.config.dstCap.val ∧ s.srcOff.toNat + s.srcLen.toNat ≤ s.config.srcCap.val) ∧
      modeOf (.unpackRaw 3) = some .raw ∧ modeOf (.unpackPb 3) = some .packBits ∧
      modeOf (.dispatch 3 .raw) = some .raw ∧ modeOf (.dispatch 3 .packBits) = some .packBits := by decide
/-- An end with success (V-M2) and one with BufferTooSmall (V-L3). -/
theorem witness_CompleteStreamSucceedsExactlyWhenItFits :
    ∀ s ∈ [ready [0xFF, 0x09, 0x80] 8, ready [0x02, 0xAA, 0xBB, 0xCC] 8],
      s.status.busy = false ∧ s.dstLen.toNat ≤ s.config.dstCap.val ∧
        s.srcOff.toNat + s.srcLen.toNat ≤ s.config.srcCap.val ∧
        (channelOutput .packBits s.channelBytes).truncated = false := by decide
theorem witness_PackBitsMicroSteps :
    (∀ s ∈ [awaiting 0x80, awaiting 0x7F, awaiting 0x81], s.fsm = .awaitCtrl ∧ s.rd.toNat < s.srcLen.toNat ∧
      s.dstLen.toNat ≤ s.config.dstCap.val ∧ s.srcOff.toNat + s.srcLen.toNat ≤ s.config.srcCap.val) ∧
      (awaiting 0x80).srcByte 0 = 0x80 ∧ ((awaiting 0x7F).srcByte 0).toNat < 0x80 ∧
      0x80 < ((awaiting 0x81).srcByte 0).toNat ∧
      (started 0x00000003 [] 0).fsm = .awaitCtrl ∧ (started 0x00000003 [] 0).rd = (started 0x00000003 [] 0).srcLen ∧
      (inside .emitNoop [0x80] 8).fsm = .emitNoop ∧
      (∀ f ∈ [Fsm.lit, .repFetch], (inside f [0x01] 8).fsm = f ∧ (inside f [0x01] 8).rd = (inside f [0x01] 8).srcLen) ∧
      (∀ f ∈ [Fsm.lit, .repFetch, .repEmit], (inside f [0x01, 0x05] 8).fsm = f ∧
        (inside f [0x01, 0x05] 8).rd.toNat < (inside f [0x01, 0x05] 8).srcLen.toNat ∧
        (inside f [0x01, 0x05] 8).wr.toNat < (inside f [0x01, 0x05] 8).dstLen.toNat ∧
        (inside f [0x01, 0x05] 0).dstLen.toNat ≤ (inside f [0x01, 0x05] 0).wr.toNat) := by decide
theorem witness_DispatchEqualsTheRoutedCommand :
    ∀ s ∈ [ready [0xFF, 0x05] 8, ready [] 65], s.status.busy = false ∧ s.fsm = .idle := by decide
theorem witness_CommandsEndWithinTheirBound :
    ∀ p ∈ [((0x00000101 : Word), Instr.fill 1), (0x00000032, .unpackRaw 3), (0x00000033, .unpackPb 3),
      (0x00000034, .dispatch 3 .raw), (0x00000074, .dispatch 3 .packBits)],
      (ready [0xFF, 0x05] 64).status.busy = false ∧ decodeCommand p.1 = .ok p.2 ∧
        (ready [0xFF, 0x05] 64).rangesOk p.2 = true := by decide
/-- A command that starts, and one whose range does not hold. -/
theorem witness_MicroStepsReachTheWholeCommand :
    ∀ s ∈ [ready [0xFF, 0x05] 8, ready [0xFF, 0x05] 65], s.status.busy = false ∧ s.fsm = .idle ∧
      decode (.cmd32 0x00000003) = .ok (.unpackPb 0) ∧ commandBound (acceptCommand 0x00000003 s) ≤ 8 := by decide
/-- Two states that differ in all that earlier commands may leave. -/
theorem witness_ResultsForgetEarlierCommands :
    let s := ready [0xFF, 0x05] 8
    let u : State := { s with
      cmd := 0x74, status := Status.failed .truncatedInput, rd := 5, wr := 9, ctrl := 1, cnt := 2, repv := 3 }
    (Instr.unpackPb 0).format = .cmd32 ∧ s.status.busy = false ∧ u.status.busy = false ∧ s.fsm = .idle ∧
      u.fsm = .idle ∧ s.config = u.config ∧
      s.srcOff = u.srcOff ∧ s.srcLen = u.srcLen ∧ s.dstLen = u.dstLen ∧ s.src = u.src ∧ s.dst = u.dst ∧
      s.ramEpoch = u.ramEpoch ∧ s ≠ u := by decide
/-- SRC with one byte changed just past the channel. -/
theorem witness_CommandsReadOnlyTheirChannel :
    let s := ready [0xFF, 0x05] 8
    (Instr.unpackPb 0).format = .cmd32 ∧ (s.status.busy = false → s.fsm = .idle) ∧ s.src ≠ s.src.write 2 0x77 ∧
      ∀ k, k < s.srcLen.toNat →
        State.srcByte { s with src := s.src.write 2 0x77 } (s.srcOff.toNat + k) = s.srcByte (s.srcOff.toNat + k) := by
  decide
theorem witness_CommandFrame :
    (∀ i ∈ [Instr.fill 1, .unpackRaw 3, .unpackPb 3, .dispatch 3 .raw, .dispatch 3 .packBits],
      i.format = .cmd32 ∧ (ready [0xFF, 0x05] 8).fsm = .idle ∧
        goesOn (exec i (ready [0xFF, 0x05] 8)) = true) := by decide
theorem witness_DistinctSlotsCommute :
    let s := ready [0xFF, 0x05] 8
    let first : Result → (State → Result) → Result := andThen
    let i : State → Result := fun x => exec (.unpackPb 1) { x with srcOff := 0, srcLen := 2 }
    let j : State → Result := fun x => exec (.unpackRaw 3) { x with srcOff := 1, srcLen := 1 }
    let ok := fun t : State => t.status.done
    modeOf (.unpackPb 1) ≠ none ∧ modeOf (.unpackRaw 3) ≠ none ∧ slotOf (.unpackPb 1) ≠ slotOf (.unpackRaw 3) ∧
      nextWith ok (i s) = true ∧ nextWith ok (first (i s) j) = true ∧ nextWith ok (j s) = true ∧
      nextWith ok (first (j s) i) = true := by decide
theorem witness_SlotDoesNotChangeTheOutcome :
    let s := ready [0xFF, 0x05] 8
    modeOf (.unpackPb 1) = some .packBits ∧ modeOf (.dispatch 3 .packBits) = some .packBits ∧
      modeOf (.unpackRaw 1) = some .raw ∧ modeOf (.dispatch 3 .raw) = some .raw ∧
      s.status.busy = false ∧ s.dstLen.toNat = 4 * 2 ∧ s.dstLen.toNat ≤ s.config.dstCap.val ∧
      s.srcOff.toNat + s.srcLen.toNat ≤ s.config.srcCap.val := by decide

/-! ## Witnesses: stream elements -/

/-- PB.LIT 1 with exactly its input and exactly its room. -/
theorem witness_PbLitCopiesItsBytes :
    let s := started 0x00000003 [0x01, 0xAA, 0xBB] 5
    s.rd.toNat + (1 : BitVec 7).toNat + 2 = s.srcLen.toNat ∧
      s.srcOff.toNat + s.srcLen.toNat ≤ s.config.srcCap.val ∧
      s.wr.toNat + 4 * (1 : BitVec 7).toNat < s.dstLen.toNat ∧ s.dstLen.toNat ≤ s.config.dstCap.val := by decide
/-- V-L5, both short at j = 1; V-L4, no room at j = 1; and no input at j = 0. -/
theorem witness_PbLitShortages :
    ∀ p ∈ [(started 0x00000003 [0x03, 0xAA] 4, 1), (started 0x00000003 [0x03, 0xAA, 0xBB] 4, 1),
      (started 0x00000003 [0x03] 4, 0)],
      p.1.rd.toNat < p.1.srcLen.toNat ∧ p.2 ≤ (3 : BitVec 7).toNat ∧
        p.1.srcOff.toNat + p.1.srcLen.toNat ≤ p.1.config.srcCap.val ∧ p.1.dstLen.toNat ≤ p.1.config.dstCap.val ∧
        p.1.wr.toNat ≤ p.1.dstLen.toNat + 3 ∧
        (∀ k, k < p.2 → p.1.rd.toNat + 1 + k < p.1.srcLen.toNat ∧ p.1.wr.toNat + 4 * k < p.1.dstLen.toNat) ∧
        (p.1.srcLen.toNat ≤ p.1.rd.toNat + 1 + p.2 ∨ p.1.dstLen.toNat ≤ p.1.wr.toNat + 4 * p.2) := by decide
theorem witness_PbRepWritesItsValue :
    let s := started 0x00000003 [0xFF, 0x05] 5
    0x81 ≤ (0xFF : Byte).toNat ∧ s.rd.toNat + 2 = s.srcLen.toNat ∧
      s.srcOff.toNat + s.srcLen.toNat ≤ s.config.srcCap.val ∧
      s.wr.toNat + 4 * (256 - (0xFF : Byte).toNat) < s.dstLen.toNat ∧ s.dstLen.toNat ≤ s.config.dstCap.val := by
  decide
/-- V-P3, the value missing with DST full; V-P4, two of four written. -/
theorem witness_PbRepShortages :
    (let s := started 0x00000003 [0xFE] 0
     0x81 ≤ (0xFE : Byte).toNat ∧ s.srcOff.toNat + s.srcLen.toNat ≤ s.config.srcCap.val ∧
       s.dstLen.toNat ≤ s.config.dstCap.val ∧ s.wr.toNat ≤ s.dstLen.toNat + 3 ∧ s.rd.toNat + 1 = s.srcLen.toNat) ∧
      (let s := started 0x00000013 [0xFD, 0x07] 8
       s.wr.toNat ≤ s.dstLen.toNat + 3 ∧ s.rd.toNat + 1 < s.srcLen.toNat ∧ 2 < 257 - (0xFD : Byte).toNat ∧
         (∀ k, k < 2 → s.wr.toNat + 4 * k < s.dstLen.toNat) ∧ s.dstLen.toNat ≤ s.wr.toNat + 4 * 2) := by decide
theorem witness_RawByteIsWrittenOrRefusedForRoom :
    (rawing.dstLen.toNat ≤ rawing.config.dstCap.val ∧ rawing.wr.toNat < rawing.dstLen.toNat) ∧
      (let s := started 0x00000002 [0x11] 0
       s.dstLen.toNat ≤ s.config.dstCap.val ∧ s.dstLen.toNat = s.wr.toNat) := by decide
theorem witness_StreamElementFrame :
    ∀ i ∈ [Instr.pbNop, .pbLit 1, .pbRep 0xFF, .rawByte 0x0A],
      i.format ≠ .cmd32 ∧ i.wellFormed = true ∧ (awaiting 0x01).dstLen.toNat ≤ (awaiting 0x01).config.dstCap.val ∧
        (awaiting 0x01).wr.toNat ≤ (awaiting 0x01).dstLen.toNat + 3 ∧ goesOn (exec i (awaiting 0x01)) = true := by
  decide
theorem witness_MicroStepsReachTheWholePacket :
    (awaiting 0x81).Inv ∧ (awaiting 0x81).fsm = .awaitCtrl ∧
      (awaiting 0x81).rd.toNat < (awaiting 0x81).srcLen.toNat ∧
      decode (.pb8 ((awaiting 0x81).srcByte ((awaiting 0x81).srcOff.toNat + (awaiting 0x81).rd.toNat)))
        = .ok (.pbRep 0x81) := ⟨awaiting_inv, by decide, by decide, by decide⟩

/-! ## Witnesses: errors, liveness, pseudo-commands -/

/-- An end with BufferTooSmall and one with TruncatedInput. -/
theorem witness_ErrorsAriseOnlyWhereTheirCauseIs :
    ((inside .lit [0x01, 0x05] 0).Inv ∧ (inside .lit [0x01, 0x05] 0).status.busy = true ∧
      nextWith (fun t => t.status.err) (microStep (inside .lit [0x01, 0x05] 0)) = true) ∧
      ((inside .repFetch [0xFF] 8).Inv ∧ (inside .repFetch [0xFF] 8).status.busy = true ∧
        nextWith (fun t => t.status.err) (microStep (inside .repFetch [0xFF] 8)) = true) :=
  ⟨⟨busy_inv _ (.unpackPb 0) (by decide), by decide, by decide⟩,
    ⟨busy_inv _ (.unpackPb 0) (by decide), by decide, by decide⟩⟩
theorem witness_WaitEnds :
    (asks .wait filling).Inv ∧ (asks .wait filling).agenda = [.wait] ∧ filling.status.busy = true :=
  ⟨busy_inv _ (.fill 1) (by decide), by decide, by decide⟩

/-- A channel of one byte at the start of SRC. -/
abbrev oneByte : Channel := ⟨0, [0x11], .raw⟩

theorem witness_PseudoCommandsExpand :
    ∀ c ∈ [Call.rgb 1 oneByte oneByte oneByte, .rgba 1 oneByte oneByte oneByte oneByte, .gray 1 oneByte,
      .grayA 1 oneByte oneByte], (asks (.call c) (ready [] 0)).agenda = [.call c] := by decide
theorem witness_PseudoCommandAborts :
    (∀ t ∈ [Turn.wait, .command 4], t ≠ .returnOk 4) ∧
      (Status.failed .bufferTooSmall).err = true ∧ (ready [] 0).status.err = false ∧
      ({ ready [] 0 with agenda := .stopOnErr :: ([Turn.wait, .command 4] ++ .returnOk 4 :: []) } : State).agenda
        = .stopOnErr :: ([Turn.wait, .command 4] ++ .returnOk 4 :: []) := by decide
/-- A buffer of exactly DST_CAP bytes. -/
theorem witness_PseudoCommandReturnsItsResult :
    (ready [] 0).status.busy = false ∧
      (asks (.call (.gray 16 oneByte)) (ready [] 0)).agenda = [.call (.gray 16 oneByte)] ∧
      4 * callPixels (.gray 16 oneByte) = (ready [] 0).config.dstCap.val ∧
      (∀ x ∈ callSlices (.gray 16 oneByte), x.offset + x.bytes.length ≤ (ready [] 0).config.srcCap.val) ∧
      (∀ x ∈ callSlices (.gray 16 oneByte), ∀ y ∈ callSlices (.gray 16 oneByte),
        ∀ i j, i < x.bytes.length → j < y.bytes.length → x.offset + i = y.offset + j →
          x.bytes[i]? = y.bytes[j]?) := by
  refine ⟨by decide, by decide, by decide, by decide, ?_⟩
  simp only [callSlices, List.mem_singleton]
  rintro x rfl y rfl i j _ _ h
  simp_all
theorem witness_TooLargeCallReturnsIllegalCommand :
    (ready [] 0).status.busy = false ∧ (ready [] 0).fsm = .idle ∧
      (asks (.call (.gray 17 oneByte)) (ready [] 0)).agenda = [.call (.gray 17 oneByte)] ∧
      (ready [] 0).config.dstCap.val < 4 * callPixels (.gray 17 oneByte) := by decide
/-- Calls of every kind in an idle state, with data that fit and coinciding slices that agree, and an empty alpha. -/
theorem witness_OpaqueAlphaAndGrayBroadcast :
    (ready [] 0).status.busy = false ∧ (ready [] 0).fsm = .idle ∧
      ∀ c ∈ [Call.gray 16 oneByte, .grayA 1 oneByte ⟨0, [], .raw⟩, .rgb 1 oneByte oneByte oneByte,
        .rgba 1 oneByte oneByte oneByte ⟨0, [], .packBits⟩],
        (asks (.call c) (ready [] 0)).agenda = [.call c] ∧ 4 * callPixels c ≤ (ready [] 0).config.dstCap.val ∧
          (∀ x ∈ callSlices c, x.offset + x.bytes.length ≤ (ready [] 0).config.srcCap.val) ∧
          (∀ x ∈ callSlices c, ∀ y ∈ callSlices c, ∀ i, i < x.bytes.length → ∀ j, j < y.bytes.length →
            x.offset + i = y.offset + j → x.bytes[i]? = y.bytes[j]?) := by decide
/-- The whole run of such a call, which ends with ok and one pixel of 0x11 in slots 0 to 2 and 0xFF in slot 3 (R239). -/
theorem witness_OpaqueAlphaAndGrayBroadcast_ok :
    nextWith (fun t => t.agenda == [] && t.received == [.ok [0x11, 0x11, 0x11, 0xFF]])
      (Host.Core.run Sys2Proof.core 30 (asks (.call (.gray 1 oneByte)) (ready [] 0))) = true := by decide

end Sys2Proof.Tests
end

/-! SUPPORT. The invariant: one lemma per kind of update that says it keeps `State.Inv`, and from these the micro-steps,
the engine's turns, the host's operations and the step. -/
section
namespace Sys2Proof.Machine

/-! ### What a running command says of the engine's state -/

theorem ne_idle_of_isPackBits {f : Fsm} (h : isPackBits f = true) : f ≠ .idle := by
  rintro rfl; cases h

theorem ne_filling_of_isPackBits {f : Fsm} (h : isPackBits f = true) : f ≠ .filling := by
  rintro rfl; cases h

/-- Only FILL runs in FILLING (40_command_interface.md R135). -/
theorem modeOf_eq_none_iff {i : Instr} {f : Fsm} (h : runsIn i f = true) : modeOf i = none ↔ f = .filling := by
  unfold runsIn at h
  split at h
  · next hm => exact iff_of_true hm (of_decide_eq_true h)
  · next hm => exact iff_of_false (by simp [hm]) (by simp [of_decide_eq_true h])
  · next hm => exact iff_of_false (by simp [hm]) (ne_filling_of_isPackBits h)

/-- A command in a PackBits state may be in any of them (10_state.md R27). -/
theorem runsIn_of_isPackBits {i : Instr} {f g : Fsm} (h : runsIn i f = true) (hf : isPackBits f = true)
    (hg : isPackBits g = true) : runsIn i g = true := by
  unfold runsIn at h ⊢
  split at h
  · cases of_decide_eq_true h; cases hf
  · cases of_decide_eq_true h; cases hf
  · exact hg

theorem isPackBits_of_isCounting {f : Fsm} (h : isCounting f = true) : isPackBits f = true := by
  cases f with
  | lit | repFetch | repEmit => rfl
  | idle | filling | raw | awaitCtrl | emitNoop => cases h

/-! ### The first values of a command -/

theorem startFsm_ne_idle {i : Instr} (h : i.format = .cmd32) : startFsm i ≠ .idle := by
  cases i with
  | dispatch s m => cases m <;> nofun
  | fill _ | unpackRaw _ | unpackPb _ => nofun
  | pbNop | pbLit _ | pbRep _ | rawByte _ => cases h

theorem runsIn_startFsm {i : Instr} (h : i.format = .cmd32) : runsIn i (startFsm i) = true := by
  cases i with
  | dispatch s m => cases m <;> rfl
  | fill _ | unpackRaw _ | unpackPb _ => rfl
  | pbNop | pbLit _ | pbRep _ | rawByte _ => cases h

@[simp] theorem isCounting_startFsm (i : Instr) : isCounting (startFsm i) = false := by
  cases i with
  | dispatch s m => cases m <;> rfl
  | _ => rfl

theorem slotOf_lt_four (i : Instr) : slotOf i < 4 := by
  cases i with
  | unpackRaw s | unpackPb s | dispatch s _ => exact s.isLt
  | fill _ | pbNop | pbLit _ | pbRep _ | rawByte _ => exact Nat.zero_lt_succ 3

/-- WR starts at the command's slot, 0 for FILL (40_command_interface.md R135). -/
@[simp] theorem startWr_toNat (i : Instr) : (startWr i).toNat = slotOf i := by
  cases i with
  | unpackRaw s | unpackPb s | dispatch s _ => exact BitVec.toNat_setWidth_of_le (by decide)
  | fill _ | pbNop | pbLit _ | pbRep _ | rawByte _ => rfl

/-- FILL has slot 0 (30_encoding.md R91). -/
theorem slotOf_eq_zero {i : Instr} (h : modeOf i = none) : slotOf i = 0 := by
  cases i with
  | unpackRaw _ | unpackPb _ | dispatch _ _ => cases h
  | fill _ | pbNop | pbLit _ | pbRep _ | rawByte _ => rfl

/-! ### Cursors as natural numbers -/

/-- RD does not wrap where the channel has a byte left (10_state.md R34). -/
theorem rd_add_one_toNat {s : State} (input : s.rd.toNat < s.srcLen.toNat) : (s.rd + 1).toNat = s.rd.toNat + 1 := by
  have := s.srcLen.isLt
  rw [BitVec.toNat_add_of_lt (by simp; omega)]
  rfl

/-- WR does not wrap where it lies inside DST (10_state.md R34). -/
theorem wr_add_toNat {s : State} {k : Word} (inside : s.wr.toNat < s.config.dstCap.val) (hk : k.toNat ≤ 4) :
    (s.wr + k).toNat = s.wr.toNat + k.toNat := by
  have := s.config.dstCap.property.2
  exact BitVec.toNat_add_of_lt (by omega)

/-! ### Updates that keep the invariant -/

variable {s : State}

theorem inv_resetWith (c : Config) : (State.resetWith c).Inv where
  srcWf := .nil
  dstWf := .nil
  srcInside := by simp
  dstInside := by simp
  busyIff := by simp
  oneFlag := by simp
  errcodeIff := by simp
  errcodeRange := by simp
  counterRange := by simp
  running := by simp

theorem inv_applyReset (s : State) : (applyReset s).Inv :=
  { inv_resetWith s.config with running := fun h => absurd rfl h }

/-- The model's own fields are no part of the invariant. -/
theorem inv_hostFields (h : s.Inv) (d : Nat) (a : List Turn) (r : List Received) :
    State.Inv { s with draws := d, agenda := a, received := r } :=
  { h with
    running := fun hf =>
      have ⟨i, hr⟩ := h.running hf
      ⟨i, { hr with ranges := (rangesOk_congr rfl rfl rfl rfl).trans hr.ranges }⟩ }

/-- In an idle state the length registers are free (40_command_interface.md R131). -/
theorem inv_idleLengths (h : s.Inv) (hf : s.fsm = .idle) (o l d : Word) :
    State.Inv { s with srcOff := o, srcLen := l, dstLen := d } :=
  { h with running := fun hn => absurd hf hn }

theorem inv_finish (h : s.Inv) (hf : s.fsm ≠ .idle) : (finish s).Inv :=
  { h with
    busyIff := by simp
    oneFlag := by simpa using (h.oneFlag.1 (h.busyIff.2 hf)).2
    running := fun hn => absurd rfl hn }

theorem ErrorKind.code_spec (e : ErrorKind) : e.code ≠ 0 ∧ e.code.toNat ≤ 3 := by
  cases e <;> decide

theorem inv_raiseError (h : s.Inv) (e : ErrorKind) : (raiseError e s).Inv :=
  { h with
    busyIff := by simp
    oneFlag := by simp
    errcodeIff := by simpa using e.code_spec.1
    errcodeRange := e.code_spec.2
    running := fun hn => absurd rfl hn }

/-- RD moves over a byte that is there (10_state.md R22). -/
theorem inv_consume (h : s.Inv) (hf : s.fsm ≠ .filling) (input : s.rd.toNat < s.srcLen.toNat) : (consume s).Inv :=
  { h with
    running := fun hn =>
      have ⟨i, hr⟩ := h.running hn
      ⟨i, { hr with
        ranges := (rangesOk_congr rfl rfl rfl rfl).trans hr.ranges
        readCursor := by rw [consume_rd, rd_add_one_toNat input]; exact input
        fillCursors := fun hm => absurd ((modeOf_eq_none_iff hr.engineState).1 hm) hf }⟩ }

/-- A byte stored inside DST keeps the memories canonical and inside; WR is a matter of the running command. -/
theorem inv_stored (h : s.Inv) {b : Byte} {k : Word} (inside : s.wr.toNat < s.config.dstCap.val)
    (hr : ∀ i, s.Running i → (stored b k s).Running i) : (stored b k s).Inv :=
  { h with
    dstWf := Memory.wf_write h.dstWf _ _
    dstInside := fun c hc => by
      obtain rfl | hc := Memory.mem_write hc
      · exact inside
      · exact h.dstInside c hc
    running := fun hn => have ⟨i, hi⟩ := h.running hn; ⟨i, hr i hi⟩ }

/-- FILL's byte: WR stays at most DST_LEN (40_command_interface.md R145). -/
theorem inv_stored_fill (h : s.Inv) {b : Byte} (hf : s.fsm = .filling) (room : s.wr.toNat < s.dstLen.toNat)
    (inside : s.wr.toNat < s.config.dstCap.val) : (stored b 1 s).Inv :=
  inv_stored h inside fun i hr =>
    have hm : modeOf i = none := (modeOf_eq_none_iff hr.engineState).2 hf
    { hr with
      ranges := (rangesOk_congr rfl rfl rfl rfl).trans hr.ranges
      fillCursors := fun _ => ⟨(hr.fillCursors hm).1, by rw [wr_add_toNat inside (by decide)]; exact room⟩
      channelCursor := fun hn => absurd hm hn }

/-- A channel's byte: WR keeps its slot and stays at most DST_LEN + 3 (10_state.md R23). -/
theorem inv_stored_channel (h : s.Inv) {b : Byte} (hf : s.fsm ≠ .filling) (room : s.wr.toNat < s.dstLen.toNat)
    (inside : s.wr.toNat < s.config.dstCap.val) : (stored b 4 s).Inv :=
  inv_stored h inside fun i hr =>
    have hm : modeOf i ≠ none := fun hn => hf ((modeOf_eq_none_iff hr.engineState).1 hn)
    { hr with
      ranges := (rangesOk_congr rfl rfl rfl rfl).trans hr.ranges
      fillCursors := fun hn => absurd hn hm
      channelCursor := fun _ => by
        have hwr : (s.wr + 4).toNat = s.wr.toNat + 4 := wr_add_toNat inside (by decide)
        have hslot := (hr.channelCursor hm).1
        simp only [hwr]
        omega }

/-- The PackBits decoder moves between its states with a count that fits (10_state.md R25, R27). -/
theorem inv_packBits (h : s.Inv) (hs : isPackBits s.fsm = true) (ctrl cnt repv : Byte) (f : Fsm)
    (hf : isPackBits f = true) (hc : cnt.toNat ≤ 128) (h1 : isCounting f = true → 1 ≤ cnt.toNat) :
    State.Inv { s with ctrl := ctrl, cnt := cnt, repv := repv, fsm := f } :=
  { h with
    busyIff := h.busyIff.trans (iff_of_true (ne_idle_of_isPackBits hs) (ne_idle_of_isPackBits hf))
    counterRange := hc
    running := fun _ =>
      have ⟨i, hr⟩ := h.running (ne_idle_of_isPackBits hs)
      ⟨i, { hr with
        ranges := (rangesOk_congr rfl rfl rfl rfl).trans hr.ranges
        engineState := runsIn_of_isPackBits hr.engineState hs hf
        counter := h1 }⟩ }

/-- While a run is counted there is a byte to count (10_state.md R25). -/
theorem one_le_cnt (h : s.Inv) (hc : isCounting s.fsm = true) : 1 ≤ s.cnt.toNat :=
  have ⟨_, hr⟩ := h.running (ne_idle_of_isPackBits (isPackBits_of_isCounting hc))
  hr.counter hc

theorem cnt_sub_one_toNat {c : Byte} (h : 1 ≤ c.toNat) : (c - 1).toNat = c.toNat - 1 :=
  BitVec.toNat_sub_of_le h

/-- A counted run ends exactly when its count reaches 0 (42_packbits.md R196). -/
theorem countDown_cases (s : State) :
    (countDown s).fsm = .awaitCtrl ∨ ((countDown s).fsm = s.fsm ∧ 1 ≤ (s.cnt - 1).toNat) := by
  rw [countDown_fsm]
  split
  · exact .inl rfl
  · next hne => exact .inr ⟨rfl, Nat.one_le_iff_ne_zero.2 fun h0 => hne (BitVec.eq_of_toNat_eq h0)⟩

theorem inv_countDown (h : s.Inv) (hc : isCounting s.fsm = true) : (countDown s).Inv := by
  have hp := isPackBits_of_isCounting hc
  have hcnt := cnt_sub_one_toNat (one_le_cnt h hc)
  have hmax := h.counterRange
  refine inv_packBits h hp s.ctrl (s.cnt - 1) s.repv (countDown s).fsm ?_ (by omega) fun hf => ?_
  · obtain he | ⟨he, -⟩ := countDown_cases s
    · rw [he]; rfl
    · rw [he]; exact hp
  · obtain he | ⟨-, hone⟩ := countDown_cases s
    · rw [he] at hf; cases hf
    · exact hone

/-- The run lengths lie in CNT's range (30_encoding.md R95, R96). -/
theorem literalCount_toNat (n : BitVec 7) : (BitVec.ofNat 8 (literalCount n)).toNat = literalCount n := by
  simp only [literalCount, BitVec.toNat_ofNat]
  omega

theorem repeatCount_toNat {c : Byte} (h : 0x81 ≤ c.toNat) :
    (BitVec.ofNat 8 (repeatCount c)).toNat = repeatCount c := by
  simp only [repeatCount, BitVec.toNat_ofNat]
  omega

/-- What the decoder gives for a control byte is well formed (30_encoding.md R94). -/
theorem decodeControl_wellFormed (c : Byte) : (decodeControl c).wellFormed = true := by
  unfold decodeControl
  split
  · rfl
  · split
    · rfl
    · rename_i hnop hlit
      have : c.toNat ≠ 0x80 := fun h => hnop (BitVec.eq_of_toNat_eq h)
      simp only [Instr.wellFormed, decide_eq_true_eq]
      omega

theorem inv_openPacket (h : s.Inv) (hf : s.fsm = .awaitCtrl) (input : s.rd.toNat < s.srcLen.toNat) {i : Instr}
    (hi : i.wellFormed = true) : (openPacket i s).Inv := by
  have hc : (consume s).Inv := inv_consume h (by simp [hf]) input
  have hp : isPackBits (consume s).fsm = true := by simp [hf, isPackBits]
  cases i with
  | pbNop => exact inv_packBits hc hp _ _ _ .emitNoop rfl h.counterRange nofun
  | pbLit n =>
    have hn := literalCount_toNat n
    have hmax : literalCount n ≤ 128 := (Laws.Counts.pbLit n rfl).2
    exact inv_packBits hc hp _ _ _ .lit rfl (hn.trans_le hmax) fun _ => (Nat.le_add_left 1 _).trans hn.ge
  | pbRep c =>
    have hcc : 0x81 ≤ c.toNat := of_decide_eq_true hi
    have hn := repeatCount_toNat hcc
    have hmax : repeatCount c ≤ 128 := (Laws.Counts.pbRep c hi).2
    exact inv_packBits hc hp _ _ _ .repFetch rfl (hn.trans_le hmax) fun _ => by
      rw [hn, repeatCount]; omega
  | fill _ | unpackRaw _ | unpackPb _ | dispatch _ _ | rawByte _ => exact h

/-! ### The engine keeps the invariant -/

/-- A micro-step keeps the invariant. -/
theorem moves_keeps_inv {s t : State} (h : s.Inv) (hm : Moves s t) : t.Inv := by
  cases hm with
  | idle _ => exact h
  | fillByte hf room inside => exact inv_stored_fill h hf room inside
  | fillEnd hf _ | rawEnd hf _ | streamEnd hf _ => exact inv_finish h (by simp [hf])
  | rawByte hf input _ room inside =>
    exact inv_stored_channel (inv_consume h (by simp [hf]) input) (by simp [hf]) room inside
  | rawFull hf input _ _ | litFull hf input _ _ => exact inv_raiseError (inv_consume h (by simp [hf]) input) _
  | control hf input _ => exact inv_openPacket h hf input (decodeControl_wellFormed _)
  | noop hf => exact inv_packBits h (by simp [hf, isPackBits]) _ _ _ .awaitCtrl rfl h.counterRange nofun
  | litByte hf input _ room inside =>
    exact inv_countDown (inv_stored_channel (inv_consume h (by simp [hf]) input) (by simp [hf]) room inside)
      (by simp [hf, isCounting])
  | litShort _ _ | fetchShort _ _ | repFull _ _ => exact inv_raiseError h _
  | fetchValue hf input _ =>
    have hcnt : 1 ≤ s.cnt.toNat := one_le_cnt h (by simp [hf, isCounting])
    exact inv_packBits (inv_consume h (by simp [hf]) input) (by simp [hf, isPackBits]) _ _ _ .repEmit rfl
      h.counterRange fun _ => hcnt
  | repByte hf room inside =>
    exact inv_countDown (inv_stored_channel h (by simp [hf]) room inside) (by simp [hf, isCounting])

theorem runEngine_keeps_inv {stop : Fsm → Bool} {n : Nat} {s t : State} (h : s.Inv)
    (hr : runEngine stop n s = .next t) : t.Inv :=
  runEngine_keeps (fun _ _ => moves_keeps_inv) h hr

/-- exec of a stream element that a control byte decodes to is its packet, begun and run (42_packbits.md R183). -/
theorem exec_packet {i : Instr} (h : i.format = .pb8) (s : State) : exec i s = runPacket (openPacket i s) := by
  cases i with
  | pbNop | pbLit _ | pbRep _ => rfl
  | fill _ | unpackRaw _ | unpackPb _ | dispatch _ _ | rawByte _ => cases h

/-- The engine's turn is one micro-step, and in AWAIT_CTRL the rest of the packet that it begins (log 7). -/
theorem engineTurn_eq (s : State) :
    engineTurn s = microStep s ∨ engineTurn s = andThen (microStep s) runPacket := by
  cases hf : s.fsm with
  | awaitCtrl =>
    by_cases hi : s.hasInput = true
    · right
      simp only [engineTurn, microStep, awaitStep, hf, hi, if_true, withInput, exec_packet (decodeControl_format _)]
      split <;> rfl
    · left; simp [engineTurn, hf, hi]
  | raw =>
    left
    simp only [engineTurn, microStep, rawStep, hf]
    split <;> rfl
  | idle | filling | emitNoop | lit | repFetch | repEmit => left; simp only [engineTurn, hf]

theorem microStep_keeps_inv {s t : State} (h : s.Inv) (hm : microStep s = .next t) : t.Inv :=
  moves_keeps_inv h (microStep_moves hm)

theorem engineTurn_keeps_inv {s t : State} (h : s.Inv) (ht : engineTurn s = .next t) : t.Inv := by
  obtain he | he := engineTurn_eq s
  · exact microStep_keeps_inv h (he ▸ ht)
  · obtain ⟨u, hu, hrun⟩ := andThen_eq_next.1 (he ▸ ht)
    exact runEngine_keeps_inv (microStep_keeps_inv h hu) hrun

/-! ### Acceptance and the register window keep the invariant -/

theorem inv_startCommand (h : s.Inv) {w : Word} {i : Instr} (hd : decodeCommand w = .ok i)
    (hr : s.rangesOk i = true) : (startCommand i (latchCommand w s)).Inv := by
  have hi := decodeCommand_format hd
  exact { h with
    busyIff := iff_of_true rfl (startFsm_ne_idle hi)
    oneFlag := by simp
    errcodeIff := by simp
    errcodeRange := by simp
    running := fun _ => ⟨i, {
      cmdIsCommand := hd
      ranges := (rangesOk_congr rfl rfl rfl rfl).trans hr
      engineState := runsIn_startFsm hi
      readCursor := by simp
      fillCursors := fun hm => by simp [slotOf_eq_zero hm]
      channelCursor := fun _ => by
        have := slotOf_lt_four i
        simp only [startCommand_wr, startWr_toNat, startCommand_dstLen]
        omega
      counter := by simp }⟩ }

theorem inv_rejectCommand (h : s.Inv) (hf : s.fsm = .idle) (w : Word) :
    (rejectCommand (latchCommand w s)).Inv := by
  have hb : s.status.busy = false := by simpa [hf] using h.busyIff
  exact { h with
    busyIff := h.busyIff
    oneFlag := by simp [hb]
    errcodeIff := by simp
    errcodeRange := by simp
    running := fun hn => absurd hf hn }

/-- BUSY = 0 exactly while the engine is idle (10_state.md R27). -/
theorem fsm_eq_idle_of_not_busy (h : s.Inv) (hb : s.status.busy = false) : s.fsm = .idle := by
  by_contra hn
  simp [h.busyIff.2 hn] at hb

theorem inv_acceptCommand (h : s.Inv) (hb : s.status.busy = false) (w : Word) : (acceptCommand w s).Inv := by
  obtain ⟨i, hd, hr, he⟩ | ⟨-, he⟩ := acceptCommand_cases w s
  · exact he ▸ inv_startCommand h hd hr
  · exact he ▸ inv_rejectCommand h (fsm_eq_idle_of_not_busy h hb) w

theorem inv_acknowledge (h : s.Inv) (w : Word) : (acknowledge w s).Inv := by
  have ⟨hbusy, hdone⟩ := h.oneFlag
  have hcode := h.errcodeIff
  have hrange := h.errcodeRange
  exact { h with
    oneFlag := by
      simp only [acknowledge_status, Status.acknowledged_busy, Status.acknowledged_done, Status.acknowledged_err]
      split_ifs <;> simp_all
    errcodeIff := by
      simp only [acknowledge_status, Status.acknowledged_err, Status.acknowledged_errcode]
      split_ifs <;> simp_all
    errcodeRange := by
      simp only [acknowledge_status, Status.acknowledged_errcode]
      split_ifs <;> simp_all
    running := fun hn =>
      have ⟨i, hr⟩ := h.running hn
      ⟨i, { hr with ranges := (rangesOk_congr rfl rfl rfl rfl).trans hr.ranges }⟩ }

/-- A host write to any register keeps the invariant (40_command_interface.md R131, R140, R142, R143). -/
theorem inv_writeRegister (h : s.Inv) (r : Reg) (v : Word) : (writeRegister r v s).Inv := by
  cases hb : s.status.busy with
  | true =>
    cases r with
    | status => exact inv_acknowledge h v
    | cmd | srcOff | srcLen | dstLen => simpa only [writeRegister, hb, if_true] using h
    | rdCur | wrCur | reserved => exact h
  | false =>
    have hf := fsm_eq_idle_of_not_busy h hb
    cases r with
    | cmd => simpa [writeRegister, hb] using inv_acceptCommand h hb v
    | status => exact inv_acknowledge h v
    | srcOff => simpa [writeRegister, hb] using inv_idleLengths h hf v s.srcLen s.dstLen
    | srcLen => simpa [writeRegister, hb] using inv_idleLengths h hf s.srcOff v s.dstLen
    | dstLen => simpa [writeRegister, hb] using inv_idleLengths h hf s.srcOff s.srcLen v
    | rdCur | wrCur | reserved => exact h

/-! ### The host's operations keep the invariant -/

variable {t : State}

theorem inv_storeRam (h : s.Inv) (hb : s.status.busy = false) {ram : Ram} {a : Nat} {bs : List Byte}
    (inside : a + bs.length ≤ s.ramCap ram) : (storeRam ram a bs s).Inv := by
  have hf := fsm_eq_idle_of_not_busy h hb
  cases ram with
  | src => exact { h with
      srcWf := Memory.wf_writeBytes h.srcWf _ _
      srcInside := fun c hc => by
        obtain ⟨-, hlt⟩ | hc := Memory.mem_writeBytes hc
        · exact hlt.trans_le inside
        · exact h.srcInside c hc
      running := fun hn => absurd hf hn }
  | dst => exact { h with
      dstWf := Memory.wf_writeBytes h.dstWf _ _
      dstInside := fun c hc => by
        obtain ⟨-, hlt⟩ | hc := Memory.mem_writeBytes hc
        · exact hlt.trans_le inside
        · exact h.dstInside c hc
      running := fun hn => absurd hf hn }

theorem hostReadReg_keeps_inv (h : s.Inv) {o w : Nat} (ht : hostReadReg o w s = .next t) : t.Inv := by
  obtain ⟨-, r, -, rfl⟩ := hostReadReg_eq_next.1 ht
  exact inv_hostFields h _ _ _

theorem hostWriteReg_keeps_inv (h : s.Inv) {o w : Nat} {v : Word} (ht : hostWriteReg o w v s = .next t) :
    t.Inv := by
  obtain ⟨-, r, -, rfl⟩ := hostWriteReg_eq_next.1 ht
  exact inv_writeRegister h r v

theorem hostReadRam_keeps_inv (h : s.Inv) {ram : Ram} {a w : Nat} (ht : hostReadRam ram a w s = .next t) :
    t.Inv := by
  obtain ⟨-, -, n, v, rfl⟩ := hostReadRam_next ht
  exact inv_hostFields h _ _ _

theorem hostWriteRam_keeps_inv (h : s.Inv) {ram : Ram} {a w : Nat} {v : Word}
    (ht : hostWriteRam ram a w v s = .next t) : t.Inv := by
  obtain ⟨-, inside, hb, rfl⟩ := hostWriteRam_eq_next.1 ht
  exact inv_storeRam h hb (by simpa using inside)

theorem hostRead_keeps_inv (h : s.Inv) {w : Nat} {p : Place} (ht : hostRead w p s = .next t) : t.Inv := by
  cases p with
  | reg o => exact hostReadReg_keeps_inv h ht
  | ram r a => exact hostReadRam_keeps_inv h ht

theorem hostWrite_keeps_inv (h : s.Inv) {w : Nat} {v : Word} {p : Place} (ht : hostWrite w v p s = .next t) :
    t.Inv := by
  cases p with
  | reg o => exact hostWriteReg_keeps_inv h ht
  | ram r a => exact hostWriteRam_keeps_inv h ht

theorem runCommand_keeps_inv (h : s.Inv) {i : Instr} (ht : runCommand i s = .next t) : t.Inv := by
  obtain ⟨-, rfl⟩ | ⟨hb, hrun⟩ := runCommand_cases ht
  · exact h
  · exact runEngine_keeps_inv (inv_acceptCommand h hb _) hrun

theorem hostCommand_keeps_inv (h : s.Inv) {w : Word} (ht : hostCommand w s = .next t) : t.Inv := by
  obtain ⟨-, he⟩ | ⟨-, i, hd, he⟩ | ⟨hb, -, he⟩ := hostCommand_cases w s
  · cases he ▸ ht; exact h
  · rw [he, exec_command (decodeCommand_format hd)] at ht
    exact runCommand_keeps_inv h ht
  · cases he ▸ ht; exact inv_acceptCommand h hb w

theorem inv_hostStopOnErr (h : s.Inv) : (hostStopOnErr s).Inv := by
  unfold hostStopOnErr
  split
  · exact inv_hostFields h _ _ _
  · exact h

theorem hostReturnOk_keeps_inv (h : s.Inv) {n : Nat} (ht : hostReturnOk n s = .next t) : t.Inv := by
  unfold hostReturnOk at ht
  split_ifs at ht <;> cases ht <;> exact inv_hostFields h _ _ _

/-! ### The step -/

theorem takeTurn_keeps_inv (h : s.Inv) {turn : Turn} {rest : List Turn} (ht : takeTurn turn rest s = .next t) :
    t.Inv := by
  have h' : State.Inv { s with agenda := rest } := inv_hostFields h s.draws rest s.received
  cases turn with
  | readReg o w => exact hostReadReg_keeps_inv h' ht
  | writeReg o w v => exact hostWriteReg_keeps_inv h' ht
  | readRam r a w => exact hostReadRam_keeps_inv h' ht
  | writeRam r a w v => exact hostWriteRam_keeps_inv h' ht
  | readAt a w => obtain ⟨p, -, hp⟩ := atPlace_eq_next.1 ht; exact hostRead_keeps_inv h' hp
  | writeAt a w v => obtain ⟨p, -, hp⟩ := atPlace_eq_next.1 ht; exact hostWrite_keeps_inv h' hp
  | command w => exact hostCommand_keeps_inv h' ht
  | wait =>
    simp only [takeTurn] at ht
    split at ht
    · exact engineTurn_keeps_inv h ht
    · cases ht; exact h'
  | reset => cases ht; exact inv_applyReset _
  | engine => exact microStep_keeps_inv h' ht
  | call c => cases ht; exact inv_hostFields h _ _ _
  | stopOnErr => cases ht; exact inv_hostStopOnErr h'
  | returnOk n => exact hostReturnOk_keeps_inv h' ht

theorem step_keeps_inv (h : s.Inv) (ht : step s = .next t) : t.Inv := by
  cases ha : s.agenda with
  | nil => exact engineTurn_keeps_inv h (step_of_empty ha ▸ ht)
  | cons turn rest => exact takeTurn_keeps_inv h (step_of_turn ha ▸ ht)

/-- Settles O10: each of the step's parts, the engine's moves and the host's operations, keeps the invariant. -/
theorem stepKeepsInvariant : Obligations.StepKeepsInvariant := fun _ _ => step_keeps_inv

/-- Settles O9: both memories are empty, STATUS is 0 and no command runs. -/
theorem resetMeetsInvariant : Obligations.ResetMeetsInvariant := inv_resetWith

/-! ### The state after reset -/

/-- Settles O7: every register by the reset's field lemmas; no byte is listed, so each reads as its free value. -/
theorem resetValues : Obligations.ResetValues := fun c =>
  ⟨rfl, by rw [resetWith_status]; decide, rfl, rfl, rfl, rfl, rfl, rfl, rfl, rfl, rfl, fun _ => ⟨rfl, rfl⟩⟩

/-! ### The cursors -/

/-- RD moves over at most one byte in a micro-step, and only over one that is there (10_state.md R22). -/
theorem moves_rd {s t : State} (h : Moves s t) :
    t.rd = s.rd ∨ (t.rd = s.rd + 1 ∧ s.rd.toNat < s.srcLen.toNat) := by
  cases h with
  | idle _ | fillByte _ _ _ | fillEnd _ _ | rawEnd _ _ | streamEnd _ _ | noop _ | litShort _ _ | fetchShort _ _
  | repByte _ _ _ | repFull _ _ => exact .inl rfl
  | rawByte _ input _ _ _ | rawFull _ input _ _ | litByte _ input _ _ _ | litFull _ input _ _
  | fetchValue _ input _ => exact .inr ⟨rfl, input⟩
  | control _ input _ =>
    cases decodeControl (s.srcByte s.readAddr) with
    | pbNop | pbLit _ | pbRep _ => exact .inr ⟨rfl, input⟩
    | fill _ | unpackRaw _ | unpackPb _ | dispatch _ _ | rawByte _ => exact .inl rfl

/-- WR moves by its stride in a micro-step that stores a byte, and else stays (10_state.md R23). -/
theorem moves_wr {s t : State} (h : Moves s t) :
    t.wr = s.wr ∨
      (t.wr = s.wr + (if s.fsm = .filling then 1 else 4) ∧ s.wr.toNat < s.config.dstCap.val) := by
  cases h with
  | idle _ | fillEnd _ _ | rawFull _ _ _ _ | rawEnd _ _ | streamEnd _ _ | noop _ | litFull _ _ _ _ | litShort _ _
  | fetchValue _ _ _ | fetchShort _ _ | repFull _ _ => exact .inl rfl
  | fillByte hf _ inside | rawByte hf _ _ _ inside | litByte hf _ _ _ inside | repByte hf _ inside =>
    exact .inr ⟨by simp [hf], inside⟩
  | control _ _ _ =>
    left
    cases decodeControl (s.srcByte s.readAddr) <;> rfl

/-- Settles O14: a cursor moves only where the byte it moves over exists, so as a number it does not wrap. -/
theorem cursorsNeverWrap : Obligations.CursorsNeverWrap := by
  intro s t _ hstep
  have hm := microStep_moves hstep
  constructor
  · obtain h | ⟨h, input⟩ := moves_rd hm
    · exact .inl (congrArg _ h)
    · exact .inr (h ▸ rd_add_one_toNat input)
  · obtain h | ⟨h, inside⟩ := moves_wr hm
    · exact .inl (congrArg _ h)
    · right
      rw [h]
      split
      · exact wr_add_toNat inside (by decide)
      · exact wr_add_toNat inside (by decide)

end Sys2Proof.Machine
end


/-! SUPPORT. What a micro-step changes of each piece of state and what it leaves, and from this that a command's end
does not depend on what stood in the registers that commands write. -/
section
namespace Sys2Proof.Machine

variable {s t u : State}

/-! ### What a micro-step changes -/

/-- No micro-step changes a capacity, a length register, SRC or the host's part (20_memory.md R65). -/
theorem moves_surroundings (h : Moves s t) : s.sameSurroundings t := by
  cases h with
  | control _ _ _ =>
    cases decodeControl (s.srcByte s.readAddr) <;> exact ⟨rfl, rfl, rfl, rfl, rfl, rfl, rfl, rfl, rfl⟩
  | _ => exact ⟨rfl, rfl, rfl, rfl, rfl, rfl, rfl, rfl, rfl⟩

/-- CMD keeps the accepted word (10_state.md R30). -/
theorem moves_cmd (h : Moves s t) : t.cmd = s.cmd := by
  cases h with
  | control _ _ _ => cases decodeControl (s.srcByte s.readAddr) <;> rfl
  | _ => rfl

/-- Only REP_FETCH writes REPV (10_state.md R26). -/
theorem moves_repv (h : Moves s t) : t.repv = s.repv ∨ s.fsm = .repFetch := by
  cases h with
  | control _ _ _ => left; cases decodeControl (s.srcByte s.readAddr) <;> rfl
  | fetchValue hf _ _ => exact .inr hf
  | _ => exact .inl rfl

/-- Inside a packet STATUS changes only by an error (42_packbits.md R196). -/
theorem moves_status_of_packet (h : Moves s t) (hp : isPackBits s.fsm = true) (he : packetEnded s.fsm = false) :
    t.status = s.status ∨ ∃ e, t.status = Status.failed e := by
  cases h with
  | rawFull _ _ _ _ | litFull _ _ _ _ | litShort _ _ | fetchShort _ _ | repFull _ _ => exact .inr ⟨_, rfl⟩
  | fillEnd hf _ | rawEnd hf _ => simp [hf, isPackBits] at hp
  | streamEnd hf _ | control hf _ _ => simp [hf, packetEnded] at he
  | _ => exact .inl rfl

/-- A stored byte changes what DST holds at WR alone. -/
theorem dstByte_stored (b : Byte) (k : Word) (s : State) (a : Nat) :
    (stored b k s).dstByte a = s.dstByte a ∨ a = s.wr.toNat := by
  refine or_iff_not_imp_right.2 fun ha => ?_
  rw [State.dstByte, Memory.get?_write_other _ _ (Ne.symm ha)]
  rfl

/-- The byte of DST that a micro-step stores stands at WR, below DST_LEN, and inside a packet a run is being counted
(10_state.md R23, 42_packbits.md R196). -/
theorem moves_dstByte (h : Moves s t) (a : Nat) :
    t.dstByte a = s.dstByte a ∨
      (a = s.wr.toNat ∧ a < s.dstLen.toNat ∧ (isPackBits s.fsm = true → isCounting s.fsm = true)) := by
  cases h with
  | fillByte hf room _ | rawByte hf _ _ room _ =>
    exact Or.imp_right (fun ha => ⟨ha, ha ▸ room, by simp [hf, isPackBits]⟩) (dstByte_stored _ 4 s a)
  | litByte hf _ _ room _ | repByte hf room _ =>
    exact Or.imp_right (fun ha => ⟨ha, ha ▸ room, by simp [hf, isCounting]⟩) (dstByte_stored _ 4 s a)
  | control _ _ _ => left; cases decodeControl (s.srcByte s.readAddr) <;> rfl
  | _ => exact .inl rfl

/-- An idle engine stays idle, and FILLING lasts until FILL ends (10_state.md R27). -/
theorem moves_fsm (h : Moves s t) :
    (s.fsm = .idle → t.fsm = .idle) ∧ (s.fsm = .filling → t.fsm = .filling ∨ t.fsm = .idle) := by
  cases h with
  | idle _ => exact ⟨id, by simp_all⟩
  | fillByte hf _ _ => exact ⟨id, .inl⟩
  | fillEnd _ _ | rawEnd _ _ | streamEnd _ _ | rawFull _ _ _ _ | litFull _ _ _ _ | litShort _ _ | fetchShort _ _
  | repFull _ _ => exact ⟨fun _ => rfl, fun _ => .inr rfl⟩
  | rawByte hf _ _ _ _ | control hf _ _ | noop hf | litByte hf _ _ _ _ | fetchValue hf _ _ | repByte hf _ _ =>
    simp [hf]

/-! ### Checked ranges keep the engine inside the RAMs -/

/-- The ranges of the command that runs, as checked at its acceptance (40_command_interface.md R134). -/
structure State.Fits (s : State) : Prop where
  buffer : s.fsm ≠ .idle → s.dstLen.toNat ≤ s.config.dstCap.val
  channel : s.fsm ≠ .idle → s.fsm ≠ .filling → s.srcOff.toNat + s.srcLen.toNat ≤ s.config.srcCap.val

theorem fits_of_moves (h : s.Fits) (hm : Moves s t) : t.Fits := by
  obtain ⟨hc, ho, hl, hd, -⟩ := moves_surroundings hm
  obtain ⟨hidle, hfill⟩ := moves_fsm hm
  exact {
    buffer := fun hn => hc ▸ hd ▸ h.buffer (mt hidle hn)
    channel := fun hn hf => hc ▸ ho ▸ hl ▸ h.channel (mt hidle hn) fun hs => (hfill hs).elim hf hn }

/-- A byte of the channel that is left lies inside SRC (20_memory.md R65). -/
theorem readAddr_lt (h : s.srcOff.toNat + s.srcLen.toNat ≤ s.config.srcCap.val)
    (input : s.rd.toNat < s.srcLen.toNat) : s.readAddr < s.config.srcCap.val := by
  unfold State.readAddr
  omega

/-- Where the ranges fit, every state of the engine has a micro-step (42_packbits.md R198). -/
theorem exists_moves (h : s.Fits) : ∃ t, Moves s t := by
  have inside (hn : s.fsm ≠ .idle) (room : s.wr.toNat < s.dstLen.toNat) : s.wr.toNat < s.config.dstCap.val :=
    room.trans_le (h.buffer hn)
  have readable (hn : s.fsm ≠ .idle) (hf : s.fsm ≠ .filling) (input : s.rd.toNat < s.srcLen.toNat) :
      s.readAddr < s.config.srcCap.val := readAddr_lt (h.channel hn hf) input
  cases hf : s.fsm with
  | idle => exact ⟨_, .idle hf⟩
  | emitNoop => exact ⟨_, .noop hf⟩
  | filling =>
    by_cases room : s.wr.toNat < s.dstLen.toNat
    · exact ⟨_, .fillByte hf room (inside (by simp [hf]) room)⟩
    · exact ⟨_, .fillEnd hf room⟩
  | raw =>
    by_cases input : s.rd.toNat < s.srcLen.toNat
    · have hr := readable (by simp [hf]) (by simp [hf]) input
      by_cases room : s.wr.toNat < s.dstLen.toNat
      · exact ⟨_, .rawByte hf input hr room (inside (by simp [hf]) room)⟩
      · exact ⟨_, .rawFull hf input hr room⟩
    · exact ⟨_, .rawEnd hf input⟩
  | awaitCtrl =>
    by_cases input : s.rd.toNat < s.srcLen.toNat
    · exact ⟨_, .control hf input (readable (by simp [hf]) (by simp [hf]) input)⟩
    · exact ⟨_, .streamEnd hf input⟩
  | lit =>
    by_cases input : s.rd.toNat < s.srcLen.toNat
    · have hr := readable (by simp [hf]) (by simp [hf]) input
      by_cases room : s.wr.toNat < s.dstLen.toNat
      · exact ⟨_, .litByte hf input hr room (inside (by simp [hf]) room)⟩
      · exact ⟨_, .litFull hf input hr room⟩
    · exact ⟨_, .litShort hf input⟩
  | repFetch =>
    by_cases input : s.rd.toNat < s.srcLen.toNat
    · exact ⟨_, .fetchValue hf input (readable (by simp [hf]) (by simp [hf]) input)⟩
    · exact ⟨_, .fetchShort hf input⟩
  | repEmit =>
    by_cases room : s.wr.toNat < s.dstLen.toNat
    · exact ⟨_, .repByte hf room (inside (by simp [hf]) room)⟩
    · exact ⟨_, .repFull hf room⟩

/-- Where the ranges fit, a run of micro-steps ends in a state, whatever its bound. -/
theorem runEngine_of_fits (stop : Fsm → Bool) (n : Nat) (h : s.Fits) : ∃ t, runEngine stop n s = .next t := by
  induction n generalizing s with
  | zero => exact ⟨s, rfl⟩
  | succ n ih =>
    cases hstop : stop s.fsm with
    | true => exact ⟨s, runEngine_stop hstop⟩
    | false =>
      obtain ⟨t, hm⟩ := exists_moves h
      obtain ⟨v, hv⟩ := ih (fits_of_moves h hm)
      exact ⟨v, (runEngine_succ hstop hm).trans hv⟩

/-! ### States that differ only in what a command does not look at -/

/-- A state with CTRL, CNT, REPV and the host's part of another. -/
def State.withHiddenOf (s d : State) : State :=
  { s with ctrl := d.ctrl, cnt := d.cnt, repv := d.repv, draws := d.draws, agenda := d.agenda, received := d.received }

/-- The second state differs from the first only in hidden registers and the host's part, and not in CNT or REPV where
the engine is about to use it (42_packbits.md R196). -/
inductive State.Agrees (s : State) : State → Prop where
  | mk (d : State) (cnt : isCounting s.fsm = true → d.cnt = s.cnt) (repv : s.fsm = .repEmit → d.repv = s.repv) :
    Agrees s (s.withHiddenOf d)

theorem sameVisible_of_agrees (h : s.Agrees u) : s.sameVisible u := by
  cases h
  exact ⟨rfl, rfl, rfl, rfl, rfl, rfl, rfl, rfl, rfl, rfl⟩

/-- A move after which neither CNT nor REPV is in use may leave any hidden registers. -/
theorem State.Agrees.of_not_counting (d : State) (h : isCounting s.fsm = false) : s.Agrees (s.withHiddenOf d) :=
  .mk d (by simp [h]) (by rintro hf; simp [hf, isCounting] at h)

theorem countDown_withHiddenOf {d : State} (h : d.cnt = s.cnt) :
    countDown (s.withHiddenOf d) = (countDown s).withHiddenOf (countDown d) := by
  simp [countDown, State.withHiddenOf, h]

theorem agrees_countDown {d : State} (hc : d.cnt = s.cnt) (hr : s.fsm = .repEmit → d.repv = s.repv) :
    (countDown s).Agrees (countDown (s.withHiddenOf d)) := by
  rw [countDown_withHiddenOf hc]
  refine .mk _ (fun _ => by simp [hc]) fun hf => hr ?_
  obtain he | ⟨he, -⟩ := countDown_cases s
  · cases he.symm.trans hf
  · exact he.symm.trans hf

theorem agrees_openPacket {d : State} (hf : s.fsm = .awaitCtrl) (i : Instr) :
    (openPacket i s).Agrees (openPacket i (s.withHiddenOf d)) := by
  cases i with
  | pbNop => exact .mk (openNop d) nofun nofun
  | pbLit n => exact .mk (openLiteral n d) (fun _ => rfl) nofun
  | pbRep c => exact .mk (openRepeat c d) (fun _ => rfl) nofun
  | fill _ | unpackRaw _ | unpackPb _ | dispatch _ _ | rawByte _ =>
    exact .of_not_counting d (by simp [openPacket, hf, isCounting])

/-- Agreeing states make the same move. -/
theorem moves_agrees (h : s.Agrees u) (hm : Moves s t) : ∃ v, Moves u v ∧ t.Agrees v := by
  obtain ⟨d, hcnt, hrepv⟩ := h
  cases hm with
  | idle hf => exact ⟨_, .idle hf, .mk d hcnt hrepv⟩
  | fillByte hf room inside => exact ⟨_, .fillByte hf room inside, .of_not_counting d (by simp [hf, isCounting])⟩
  | fillEnd hf full => exact ⟨_, .fillEnd hf full, .of_not_counting d rfl⟩
  | rawByte hf input readable room inside =>
    exact ⟨_, .rawByte hf input readable room inside, .of_not_counting d (by simp [hf, isCounting])⟩
  | rawFull hf input readable full => exact ⟨_, .rawFull hf input readable full, .of_not_counting d rfl⟩
  | rawEnd hf out => exact ⟨_, .rawEnd hf out, .of_not_counting d rfl⟩
  | control hf input readable => exact ⟨_, .control hf input readable, agrees_openPacket hf _⟩
  | streamEnd hf out => exact ⟨_, .streamEnd hf out, .of_not_counting d rfl⟩
  | noop hf => exact ⟨_, .noop hf, .of_not_counting d rfl⟩
  | litByte hf input readable room inside =>
    exact ⟨_, .litByte hf input readable room inside,
      agrees_countDown (s := stored _ 4 (consume s)) (hcnt (by simp [hf, isCounting])) hrepv⟩
  | litFull hf input readable full => exact ⟨_, .litFull hf input readable full, .of_not_counting d rfl⟩
  | litShort hf out => exact ⟨_, .litShort hf out, .of_not_counting d rfl⟩
  | fetchValue hf input readable =>
    exact ⟨_, .fetchValue hf input readable,
      .mk { d with repv := s.srcByte s.readAddr } (fun _ => hcnt (by simp [hf, isCounting])) fun _ => rfl⟩
  | fetchShort hf out => exact ⟨_, .fetchShort hf out, .of_not_counting d rfl⟩
  | repByte hf room inside =>
    refine ⟨_, .repByte hf room inside, ?_⟩
    have hv : (s.withHiddenOf d).repv = s.repv := hrepv hf
    rw [hv]
    exact agrees_countDown (s := stored _ 4 s) (hcnt (by simp [hf, isCounting])) hrepv
  | repFull hf full => exact ⟨_, .repFull hf full, .of_not_counting d rfl⟩

theorem runEngine_agrees {stop : Fsm → Bool} {n : Nat} (h : s.Agrees u) (hr : runEngine stop n s = .next t) :
    ∃ v, runEngine stop n u = .next v ∧ t.Agrees v := by
  have hfsm : u.fsm = s.fsm := by cases h; rfl
  induction n generalizing s u with
  | zero => cases hr; exact ⟨u, rfl, h⟩
  | succ n ih =>
    cases hstop : stop s.fsm with
    | true => cases (runEngine_stop hstop).symm.trans hr; exact ⟨u, runEngine_stop (hfsm ▸ hstop), h⟩
    | false =>
      simp only [runEngine, hstop] at hr
      obtain ⟨w, hw, hrest⟩ := andThen_eq_next.1 hr
      obtain ⟨x, hx, hwx⟩ := moves_agrees h (microStep_moves hw)
      obtain ⟨v, hv, htv⟩ := ih hwx hrest (by cases hwx; rfl)
      exact ⟨v, (runEngine_succ (hfsm ▸ hstop) hx).trans hv, htv⟩

/-! ### Acceptance forgets the registers it writes -/

/-- A cleared STATUS keeps BUSY alone (40_command_interface.md R135). -/
theorem Status.cleared_congr {a b : Status} (h : a.busy = b.busy) : a.cleared = b.cleared := by
  simp [Status.cleared, h]

theorem fits_acceptCommand (w : Word) (hf : s.fsm = .idle) : (acceptCommand w s).Fits := by
  obtain ⟨i, hd, hr, he⟩ | ⟨-, he⟩ := acceptCommand_cases w s
  · rw [he]
    have hmode := modeOf_eq_none_iff (runsIn_startFsm (decodeCommand_format hd))
    exact ⟨fun _ => rangesOk_buffer hr, fun _ hn => rangesOk_channel hr (mt hmode.1 hn)⟩
  · rw [he]
    exact ⟨fun hn => absurd hf hn, fun hn => absurd hf hn⟩

theorem acceptCommand_agrees (w : Word) (hs : s.fsm = .idle) (hu : u.fsm = .idle) (hb : s.status.busy = u.status.busy)
    (hc : s.config = u.config) (ho : s.srcOff = u.srcOff) (hl : s.srcLen = u.srcLen) (hd : s.dstLen = u.dstLen)
    (hsrc : s.src = u.src) (hdst : s.dst = u.dst) (he : s.ramEpoch = u.ramEpoch) :
    (acceptCommand w s).Agrees (acceptCommand w u) := by
  have hst := Status.cleared_congr hb
  have hstart (i : Instr) : startCommand i (latchCommand w u) = (startCommand i (latchCommand w s)).withHiddenOf u := by
    simp [startCommand, latchCommand, State.withHiddenOf, *]
  have hreject : rejectCommand (latchCommand w u) = (rejectCommand (latchCommand w s)).withHiddenOf u := by
    simp [rejectCommand, latchCommand, State.withHiddenOf, *]
  have haccept : acceptCommand w u = (acceptCommand w s).withHiddenOf u := by
    unfold acceptCommand
    split
    · rw [rangesOk_congr hc.symm hd.symm ho.symm hl.symm, hstart, hreject]
      split <;> rfl
    · exact hreject
  rw [haccept]
  refine .of_not_counting u ?_
  obtain ⟨i, -, -, h⟩ | ⟨-, h⟩ := acceptCommand_cases w s
  · simp [h]
  · simp [h, hs, isCounting]

theorem commandBound_of_agrees (h : s.Agrees u) : commandBound u = commandBound s := by
  cases h
  rfl

theorem runCommand_of_not_busy (i : Instr) (hb : s.status.busy = false) :
    runCommand i s = runEngine commandEnded (commandBound (acceptCommand (commandWord i) s))
      (acceptCommand (commandWord i) s) := by
  simp [runCommand, hb]

/-- Settles O40: acceptance makes the two states agree, and agreeing states run alike. -/
theorem resultsForgetEarlierCommands : Obligations.ResultsForgetEarlierCommands := by
  intro s u i hi hbs hbu hs hu hc ho hl hd hsrc hdst he
  have hagree : (acceptCommand (commandWord i) s).Agrees (acceptCommand (commandWord i) u) :=
    acceptCommand_agrees _ hs hu (hbs.trans hbu.symm) hc ho hl hd hsrc hdst he
  rw [exec_command hi, exec_command hi, runCommand_of_not_busy i hbs, runCommand_of_not_busy i hbu,
    commandBound_of_agrees hagree]
  obtain ⟨t, ht⟩ := runEngine_of_fits commandEnded (commandBound (acceptCommand (commandWord i) s))
    (fits_acceptCommand (commandWord i) hs)
  obtain ⟨v, hv, htv⟩ := runEngine_agrees hagree ht
  exact ⟨t, v, ht, hv, sameVisible_of_agrees htv⟩

end Sys2Proof.Machine
end


/-! SUPPORT. The frame of a stream element: a packet's run is followed by the count of its output bytes to come. -/
section
namespace Sys2Proof.Machine

variable {s t u : State}

/-! ### The frame of a stream element -/

/-- What a run that a stream element i begins in s has left as it was and where it may have stored. -/
structure ElementFrame (i : Instr) (s u : State) : Prop where
  cmd : u.cmd = s.cmd
  surroundings : s.sameSurroundings u
  bytes : ∀ a, (s.dstLen.toNat ≤ a ∨ ∀ k, k < i.outputCount → a ≠ s.wr.toNat + 4 * k) →
    u.dstByte a = s.dstByte a
  repv : (∀ c, i ≠ .pbRep c) → u.repv = s.repv
  status : u.status = s.status ∨ ∃ e, u.status = Status.failed e

/-- A packet under way: its frame, and a count that says how many of its output bytes are still to come. -/
structure InPacket (i : Instr) (s u : State) : Prop extends ElementFrame i s u where
  engine : isPackBits u.fsm = true ∨ u.fsm = .idle
  fetches : u.fsm = .repFetch → ∃ c, i = .pbRep c
  counted : isCounting u.fsm = true →
    ∃ j, u.wr.toNat = s.wr.toNat + 4 * j ∧ 1 ≤ u.cnt.toNat ∧ j + u.cnt.toNat = i.outputCount

theorem elementFrame_of_openPacket (i : Instr) (s : State) : ElementFrame i s (openPacket i s) := by
  cases i <;> exact ⟨rfl, ⟨rfl, rfl, rfl, rfl, rfl, rfl, rfl, rfl, rfl⟩, fun _ _ => rfl, fun _ => rfl, .inl rfl⟩

theorem inPacket_of_openPacket {i : Instr} (hi : i.format = .pb8) (hw : i.wellFormed = true) (s : State) :
    InPacket i s (openPacket i s) := by
  have frame := elementFrame_of_openPacket i s
  cases i with
  | pbNop => exact ⟨frame, .inl rfl, nofun, nofun⟩
  | pbLit n =>
    have hn := literalCount_toNat n
    exact ⟨frame, .inl rfl, nofun, fun _ =>
      ⟨0, rfl, (Nat.le_add_left 1 _).trans hn.ge, (Nat.zero_add _).trans hn⟩⟩
  | pbRep c =>
    have hn := repeatCount_toNat (of_decide_eq_true hw)
    have hone : 1 ≤ repeatCount c := by rw [repeatCount]; omega
    exact ⟨frame, .inl rfl, fun _ => ⟨c, rfl⟩, fun _ =>
      ⟨0, rfl, hone.trans hn.ge, (Nat.zero_add _).trans hn⟩⟩
  | fill _ | unpackRaw _ | unpackPb _ | dispatch _ _ | rawByte _ => cases hi

theorem sameSurroundings_trans (h : s.sameSurroundings t) (h' : t.sameSurroundings u) : s.sameSurroundings u := by
  simp_all [State.sameSurroundings]

/-- A move inside a packet stays inside its frame. -/
theorem elementFrame_of_moves {i : Instr} (h : InPacket i s u) (he : packetEnded u.fsm = false)
    (hp : isPackBits u.fsm = true) (hm : Moves u t) : ElementFrame i s t where
  cmd := (moves_cmd hm).trans h.cmd
  surroundings := sameSurroundings_trans h.surroundings (moves_surroundings hm)
  bytes a ha := by
    refine Eq.trans ?_ (h.bytes a ha)
    obtain hsame | ⟨hwr, hlt, hcount⟩ := moves_dstByte hm a
    · exact hsame
    · obtain ⟨j, hj, hone, hsum⟩ := h.counted (hcount hp)
      obtain ⟨-, -, -, hlen, -⟩ := h.surroundings
      obtain hle | hne := ha
      · exact absurd (hlen ▸ hle) (Nat.not_le.2 hlt)
      · exact absurd (hwr.trans hj) (hne j (by omega))
  repv hn := by
    obtain hsame | hf := moves_repv hm
    · exact hsame.trans (h.repv hn)
    · obtain ⟨c, hc⟩ := h.fetches hf
      exact absurd hc (hn c)
  status := by
    obtain hsame | hfail := moves_status_of_packet hm hp he
    · exact hsame ▸ h.status
    · exact .inr hfail

/-- A byte of a run is written: one less to count, one stride further (42_packbits.md R196). -/
theorem inPacket_countDown {i : Instr} {v : State} (h : InPacket i s u) (hcounting : isCounting u.fsm = true)
    (inside : u.wr.toNat < u.config.dstCap.val) (hfsm : v.fsm = u.fsm) (hwr : v.wr = u.wr + 4) (hcnt : v.cnt = u.cnt)
    (frame : ElementFrame i s (countDown v)) : InPacket i s (countDown v) := by
  obtain ⟨j, hj, hone, hsum⟩ := h.counted hcounting
  obtain hdone | ⟨hstay, hleft⟩ := countDown_cases v
  · exact ⟨frame, .inl (by rw [hdone]; rfl), by rw [hdone]; nofun, by rw [hdone]; nofun⟩
  · rw [hfsm] at hstay
    rw [hcnt] at hleft
    refine ⟨frame, .inl (hstay ▸ isPackBits_of_isCounting hcounting), fun hr => h.fetches (hstay ▸ hr),
      fun _ => ⟨j + 1, ?_, ?_⟩⟩
    · have hadd : (u.wr + 4).toNat = u.wr.toNat + 4 := wr_add_toNat inside (by decide)
      rw [countDown_wr, hwr, hadd, hj, Nat.mul_succ, Nat.add_assoc]
    · have hsub := cnt_sub_one_toNat hone
      rw [countDown_cnt, hcnt]
      exact ⟨hleft, by omega⟩

/-- A move inside a packet stays inside the packet, or ends it. -/
theorem inPacket_of_moves {i : Instr} (h : InPacket i s u) (he : packetEnded u.fsm = false) (hm : Moves u t) :
    InPacket i s t := by
  have hp : isPackBits u.fsm = true := h.engine.resolve_right fun hf => by simp [hf, packetEnded] at he
  have frame := elementFrame_of_moves h he hp hm
  cases hm with
  | idle hf | control hf _ _ | streamEnd hf _ => simp [hf, packetEnded] at he
  | fillByte hf _ _ | fillEnd hf _ | rawByte hf _ _ _ _ | rawFull hf _ _ _ | rawEnd hf _ =>
    simp [hf, isPackBits] at hp
  | noop _ => exact ⟨frame, .inl rfl, nofun, nofun⟩
  | litByte hf _ _ _ inside => exact inPacket_countDown h (by simp [hf, isCounting]) inside rfl rfl rfl frame
  | repByte hf _ inside => exact inPacket_countDown h (by simp [hf, isCounting]) inside rfl rfl rfl frame
  | litFull _ _ _ _ | litShort _ _ | fetchShort _ _ | repFull _ _ => exact ⟨frame, .inr rfl, nofun, nofun⟩
  | fetchValue hf _ _ => exact ⟨frame, .inl rfl, nofun, fun _ => h.counted (by simp [hf, isCounting])⟩

/-- What every micro-step before the stop keeps, a run up to the stop keeps. -/
theorem runEngine_keeps_until {P : State → Prop} {stop : Fsm → Bool}
    (step : ∀ u v, P u → stop u.fsm = false → Moves u v → P v) {n : Nat} (hs : P s)
    (h : runEngine stop n s = .next t) : P t := by
  induction n generalizing s with
  | zero => cases h; exact hs
  | succ n ih =>
    cases hstop : stop s.fsm with
    | true => cases (runEngine_stop hstop).symm.trans h; exact hs
    | false =>
      simp only [runEngine, hstop] at h
      obtain ⟨u, hu, hrest⟩ := andThen_eq_next.1 h
      exact ih (step s u hs hstop (microStep_moves hu)) hrest

/-- The frame of a packet, whatever its end. -/
theorem elementFrame_of_packet {i : Instr} (hi : i.format = .pb8) (hw : i.wellFormed = true)
    (h : exec i s = .next t) : ElementFrame i s t := by
  rw [exec_packet hi] at h
  have hend : InPacket i s t :=
    runEngine_keeps_until (fun _ _ => inPacket_of_moves) (inPacket_of_openPacket hi hw s) h
  exact hend.toElementFrame

/-- The frame of a raw byte, which leaves CTRL and CNT besides (41_raw_unpacker.md R161). -/
theorem elementFrame_of_rawByte {b : Byte} (h : exec (.rawByte b) s = .next t) :
    ElementFrame (.rawByte b) s t ∧ t.ctrl = s.ctrl ∧ t.cnt = s.cnt := by
  change emitByte b (consume s) = .next t at h
  unfold emitByte at h
  split at h
  · next room =>
    obtain ⟨-, rfl⟩ := store_eq_next.1 h
    have hlt : s.wr.toNat < s.dstLen.toNat := (hasRoom_iff _).1 room
    refine ⟨⟨rfl, ⟨rfl, rfl, rfl, rfl, rfl, rfl, rfl, rfl, rfl⟩, fun a ha => ?_, fun _ => rfl, .inl rfl⟩,
      rfl, rfl⟩
    refine (dstByte_stored b 4 s a).resolve_right fun haw => ?_
    obtain hle | hne := ha
    · omega
    · exact hne 0 Nat.one_pos haw
  · cases h
    exact ⟨⟨rfl, ⟨rfl, rfl, rfl, rfl, rfl, rfl, rfl, rfl, rfl⟩, fun _ _ => rfl, fun _ => rfl, .inr ⟨_, rfl⟩⟩,
      rfl, rfl⟩

/-- Settles O51: a raw byte's one step directly, a packet by its count of the bytes still to come. -/
theorem streamElementFrame : Obligations.StreamElementFrame := by
  intro i s t hi hw _ _ h
  have ⟨frame, hraw⟩ : ElementFrame i s t ∧ (i.format = .raw8 → t.ctrl = s.ctrl ∧ t.cnt = s.cnt) := by
    cases hfmt : i.format with
    | cmd32 => exact absurd hfmt hi
    | pb8 => exact ⟨elementFrame_of_packet hfmt hw h, nofun⟩
    | raw8 =>
      cases i with
      | rawByte b => exact ⟨(elementFrame_of_rawByte h).1, fun _ => (elementFrame_of_rawByte h).2⟩
      | fill _ | unpackRaw _ | unpackPb _ | dispatch _ _ | pbNop | pbLit _ | pbRep _ => cases hfmt
  exact ⟨frame.cmd, frame.surroundings, frame.bytes, frame.repv, hraw, frame.status⟩

end Sys2Proof.Machine
end


/-! SUPPORT. The host's accesses to the RAMs: what a RAM holds after a host write, what a host read returns, and the
access of the window in which an address lies. -/
section
namespace Sys2Proof.Machine

variable {s : State}

/-! ### Host writes of a RAM -/

/-- The byte read where bytes were written at consecutive addresses; x stands for a byte that nobody has written. -/
theorem Memory.getD_writeBytes (m : Memory) (a b : Nat) (vs : List Byte) (x : Byte) :
    ((m.writeBytes a vs).get? b).getD x =
      if a ≤ b ∧ b < a + vs.length then (vs[b - a]?).getD 0 else (m.get? b).getD x := by
  rw [Memory.get?_writeBytes]
  split
  · rw [List.getElem?_eq_getElem (by omega)]; rfl
  · rfl

/-- What both RAMs hold after bytes are stored at consecutive addresses of one of them (20_memory.md R62). -/
theorem ramByte_storeRam (ram : Ram) (a : Nat) (bs : List Byte) (s : State) (r : Ram) (b : Nat) :
    (storeRam ram a bs s).ramByte r b =
      if r = ram ∧ a ≤ b ∧ b < a + bs.length then (bs[b - a]?).getD 0 else s.ramByte r b := by
  cases ram <;> cases r
  case src.dst | dst.src => rfl
  case src.src | dst.dst =>
    simp [State.ramByte, State.srcByte, State.dstByte, storeRam, Memory.getD_writeBytes]

/-- Storing bytes in a RAM changes that RAM's contents alone. -/
theorem storeRam_frame (ram : Ram) (a : Nat) (bs : List Byte) (s : State) :
    { storeRam ram a bs s with src := s.src, dst := s.dst } = s := by
  cases ram <;> rfl

/-- An access of 1, 2 or 4 bytes, aligned to its size, is well formed (20_memory.md R62). -/
theorem ramAccessOk_of {a w : Nat} (hw : w = 1 ∨ w = 2 ∨ w = 4) (ha : a % w = 0) : ramAccessOk a w = true := by
  simpa [ramAccessOk, ha, or_assoc] using hw

/-! ### Accesses by address -/

/-- An access by address is the access of the one window in which the address lies, at the address's distance from
its base, and in no window it faults (20_memory.md R67, log 11). -/
theorem atPlace_windows (x : Nat) (f : Place → State → Result) (s : State) :
    let inReg := s.config.regBase ≤ x ∧ x < s.config.regBase + 32
    let inSrc := s.config.srcBase ≤ x ∧ x < s.config.srcBase + s.config.srcCap.val
    let inDst := s.config.dstBase ≤ x ∧ x < s.config.dstBase + s.config.dstCap.val
    (inReg → ¬inSrc → ¬inDst → atPlace x f s = f (.reg (x - s.config.regBase)) s) ∧
    (¬inReg → inSrc → ¬inDst → atPlace x f s = f (.ram .src (x - s.config.srcBase)) s) ∧
    (¬inReg → ¬inSrc → inDst → atPlace x f s = f (.ram .dst (x - s.config.dstBase)) s) ∧
    (¬inReg → ¬inSrc → ¬inDst → atPlace x f s = .fault .hostOutsideWindow) := by
  unfold atPlace
  exact ⟨fun hr hs hd => by rw [placesAt_reg hr hs hd], fun hr hs hd => by rw [placesAt_src hr hs hd],
    fun hr hs hd => by rw [placesAt_dst hr hs hd], fun hr hs hd => by rw [placesAt_none hr hs hd]⟩

/-- Settles O22: a RAM write by what the RAMs hold after storing bytes, an access by address by its window. -/
theorem hostRamWritesAreLittleEndian : Obligations.HostRamWritesAreLittleEndian := by
  refine ⟨fun s ram a w v rest hs hb hw ha hin => ?_, fun s x w v rest => ⟨fun hs => ?_, fun hs => ?_⟩⟩
  · refine ⟨storeRam ram a (bytesOfWord v w) { s with agenda := rest }, ?_, fun k hk => ?_, fun r b hout => ?_,
      storeRam_frame _ _ _ _⟩
    · exact (step_of_turn hs).trans (hostWriteRam_eq_next.2 ⟨ramAccessOk_of hw ha, hin, hb, rfl⟩)
    · rw [ramByte_storeRam, if_pos (by simp [hk]), bytesOfWord_getElem?, if_pos (by omega), Nat.add_sub_cancel_left]
      rfl
    · rw [ramByte_storeRam, if_neg]
      · cases r <;> rfl
      · rintro ⟨rfl, hle, hlt⟩
        simp only [bytesOfWord_length] at hlt
        obtain hne | hlow | hhigh := hout
        · exact hne rfl
        · omega
        · omega
  · rw [step_of_turn hs]
    exact atPlace_windows x (hostRead w) { s with agenda := rest }
  · rw [step_of_turn hs]
    exact atPlace_windows x (hostWrite w v) { s with agenda := rest }

/-! ### Host reads of a RAM -/

/-- The agenda is no part of what a RAM holds. -/
@[simp] theorem ramBytes_agenda (s : State) (rest : List Turn) (ram : Ram) (a n : Nat) :
    State.ramBytes { s with agenda := rest } ram a n = s.ramBytes ram a n := by
  induction n generalizing a with
  | zero => rfl
  | succ n ih => simp only [State.ramBytes, ih]; cases ram <;> rfl

/-- While BUSY = 0 a host read, aligned and inside the RAM, returns the bytes held (20_memory.md R62, R69). -/
theorem step_readRam {ram : Ram} {a w : Nat} {rest : List Turn} (hs : s.agenda = .readRam ram a w :: rest)
    (hb : s.status.busy = false) (hw : w = 1 ∨ w = 2 ∨ w = 4) (ha : a % w = 0) (hin : a + w ≤ s.ramCap ram) :
    step s = .next { s with
      agenda := rest
      received := s.received ++ [.ram ram a w (wordOfBytes (s.ramBytes ram a w))] } := by
  have hinside : State.ramInside { s with agenda := rest } ram a w = true := decide_eq_true hin
  rw [step_of_turn hs]
  simp [takeTurn, hostReadRam, ramAccessOk_of hw ha, hinside, hb, record]

/-- The word of four bytes has the first in its least significant place (20_memory.md R62). -/
theorem wordOfBytes_four (a b c d : Byte) : wordOfBytes [a, b, c, d] = d ++ c ++ b ++ a := by
  refine BitVec.eq_of_getLsbD_eq fun i hi => ?_
  simp only [wordOfBytes_getLsbD _ hi, BitVec.getLsbD_append]
  split_ifs
  · simp [show i / 8 = 0 by omega, show i % 8 = i by omega]
  · simp [show i / 8 = 1 by omega, show i % 8 = i - 8 by omega]
  · simp [show i / 8 = 2 by omega, show i % 8 = i - 8 - 8 by omega]
  · simp [show i / 8 = 3 by omega, show i % 8 = i - 8 - 8 - 8 by omega]

/-- Settles O23: both are the read of the bytes held, the first at four bytes of one pixel. -/
theorem pixelWordReadsSlotsInOrder : Obligations.PixelWordReadsSlotsInOrder := by
  refine ⟨fun s p rest hs hb hin => ?_,
    fun s ram a w rest hs hb hw ha hin => ⟨_, step_readRam hs hb hw ha hin, ?_, ?_⟩⟩
  · rw [step_readRam hs hb (.inr (.inr rfl)) (Nat.mul_mod_right 4 p) hin]
    simp only [State.ramBytes, wordOfBytes_four, State.ramByte, Nat.add_assoc]
  · intro k hk
    rw [wordOfBytes_extract _ (by omega), ramBytes_getElem?, if_pos hk]
    rfl
  · simpa using wordOfBytes_lt (s.ramBytes ram a w)

end Sys2Proof.Machine
end


/-! SUPPORT. The faults a step can end in: the engine has none where the ranges fit, the host only its own. -/
section
namespace Sys2Proof.Machine

variable {s : State} {e : Fault}

/-! ### The engine's accesses lie inside the RAMs -/

/-- The invariant holds the checked ranges of the command that runs (40_command_interface.md R134, R140). -/
theorem fits_of_inv (h : s.Inv) : s.Fits where
  buffer hn := have ⟨_, hr⟩ := h.running hn; rangesOk_buffer hr.ranges
  channel hn hf :=
    have ⟨_, hr⟩ := h.running hn
    rangesOk_channel hr.ranges fun hm => hf ((modeOf_eq_none_iff hr.engineState).1 hm)

/-- Where the ranges fit, a micro-step answers a next state (42_packbits.md R198). -/
theorem microStep_of_fits (h : s.Fits) : ∃ t, microStep s = .next t :=
  (exists_moves h).imp fun _ => moves_iff.1

/-- Where the ranges fit, the engine's turn answers a next state (20_memory.md R65). -/
theorem engineTurn_of_fits (h : s.Fits) : ∃ t, engineTurn s = .next t := by
  obtain ⟨u, hm⟩ := exists_moves h
  obtain he | he := engineTurn_eq s
  · exact ⟨u, he.trans (moves_iff.1 hm)⟩
  · obtain ⟨t, ht⟩ := runEngine_of_fits packetEnded 129 (fits_of_moves h hm)
    exact ⟨t, by rw [he, moves_iff.1 hm]; exact ht⟩

/-- A CMD write while BUSY = 1 is ignored (40_command_interface.md R140). -/
theorem runCommand_of_busy (i : Instr) (hb : s.status.busy = true) : runCommand i s = .next s := by
  simp [runCommand, hb]

/-- A command that finds the engine idle, or is ignored, answers a next state (40_command_interface.md R130, R140). -/
theorem runCommand_of_idle (i : Instr) (h : s.status.busy = false → s.fsm = .idle) :
    ∃ t, runCommand i s = .next t := by
  cases hb : s.status.busy with
  | true => exact ⟨s, runCommand_of_busy i hb⟩
  | false =>
    rw [runCommand_of_not_busy i hb]
    exact runEngine_of_fits _ _ (fits_acceptCommand _ (h hb))

theorem hostCommand_of_idle (w : Word) (h : s.status.busy = false → s.fsm = .idle) :
    ∃ t, hostCommand w s = .next t := by
  obtain ⟨-, he⟩ | ⟨-, i, hd, he⟩ | ⟨-, -, he⟩ := hostCommand_cases w s
  · exact ⟨_, he⟩
  · rw [he, exec_command (decodeCommand_format hd)]
    exact runCommand_of_idle i h
  · exact ⟨_, he⟩

/-! ### The host's own faults -/

/-- An answer of a next state is no fault. -/
theorem ne_fault_of_next {o : Result} (h : ∃ t, o = .next t) : o ≠ .fault e := by
  obtain ⟨t, rfl⟩ := h
  nofun

theorem hostReadReg_fault {o w : Nat} (h : hostReadReg o w s = .fault e) : e = .hostOutsideWindow := by
  unfold hostReadReg at h
  split at h
  · split at h <;> cases h; rfl
  · cases h

theorem hostWriteReg_fault {o w : Nat} {v : Word} (h : hostWriteReg o w v s = .fault e) :
    e = .hostOutsideWindow := by
  unfold hostWriteReg at h
  split at h
  · split at h <;> cases h; rfl
  · cases h

theorem hostReadRam_fault {ram : Ram} {a w : Nat} (h : hostReadRam ram a w s = .fault e) :
    e = .hostOutsideWindow := by
  unfold hostReadRam at h
  split_ifs at h
  cases h; rfl

theorem hostWriteRam_fault {ram : Ram} {a w : Nat} {v : Word} (h : hostWriteRam ram a w v s = .fault e) :
    e = .hostOutsideWindow := by
  unfold hostWriteRam at h
  split_ifs at h
  cases h; rfl

theorem hostReturnOk_fault {n : Nat} (h : hostReturnOk n s = .fault e) : e = .hostOutsideWindow := by
  unfold hostReturnOk at h
  split_ifs at h
  cases h; rfl

theorem readAt_fault {x w : Nat} (h : atPlace x (hostRead w) s = .fault e) : e = .hostOutsideWindow := by
  obtain ⟨-, he⟩ | ⟨p, -, hp⟩ := atPlace_eq_fault.1 h
  · exact he
  · cases p with
    | reg o => exact hostReadReg_fault hp
    | ram r a => exact hostReadRam_fault hp

theorem writeAt_fault {x w : Nat} {v : Word} (h : atPlace x (hostWrite w v) s = .fault e) :
    e = .hostOutsideWindow := by
  obtain ⟨-, he⟩ | ⟨p, -, hp⟩ := atPlace_eq_fault.1 h
  · exact he
  · cases p with
    | reg o => exact hostWriteReg_fault hp
    | ram r a => exact hostWriteRam_fault hp

/-- No turn of either agent has a fault but a host access outside its window (20_memory.md R65). -/
theorem takeTurn_fault (h : s.Inv) {turn : Turn} {rest : List Turn} (hf : takeTurn turn rest s = .fault e) :
    e = .hostOutsideWindow := by
  have h' : State.Inv { s with agenda := rest } := inv_hostFields h s.draws rest s.received
  cases turn with
  | readReg o w => exact hostReadReg_fault hf
  | writeReg o w v => exact hostWriteReg_fault hf
  | readRam r a w => exact hostReadRam_fault hf
  | writeRam r a w v => exact hostWriteRam_fault hf
  | readAt a w => exact readAt_fault hf
  | writeAt a w v => exact writeAt_fault hf
  | returnOk n => exact hostReturnOk_fault hf
  | command w => exact absurd hf (ne_fault_of_next (hostCommand_of_idle w (fsm_eq_idle_of_not_busy h')))
  | engine => exact absurd hf (ne_fault_of_next (microStep_of_fits (fits_of_inv h')))
  | wait =>
    simp only [takeTurn] at hf
    split at hf
    · exact absurd hf (ne_fault_of_next (engineTurn_of_fits (fits_of_inv h)))
    · cases hf
  | reset | call _ | stopOnErr => cases hf

/-- Settles O11: the invariant's ranges keep the engine inside the RAMs, so a fault is one of the host's accesses. -/
theorem engineStaysInsideTheRams : Obligations.EngineStaysInsideTheRams := by
  refine fun s h => ⟨fun f => ?_, fun f hf => ?_⟩
  · exact ne_fault_of_next (microStep_of_fits (fits_of_inv h))
  · cases ha : s.agenda with
    | nil => exact absurd (step_of_empty ha ▸ hf) (ne_fault_of_next (engineTurn_of_fits (fits_of_inv h)))
    | cons turn rest => exact takeTurn_fault h (step_of_turn ha ▸ hf)

end Sys2Proof.Machine
end


/-! SUPPORT. The frame of a command: what its acceptance and every micro-step of its run leave as it was, and where it
may have stored. -/
section
namespace Sys2Proof.Machine

variable {s t u : State} {i : Instr}

/-! ### Acceptance of a command's own word -/

/-- A command's word decodes to the command (30_encoding.md R92). -/
theorem decodeCommand_commandWord (hi : i.format = .cmd32) : decodeCommand (commandWord i) = .ok i := by
  cases i with
  | fill v => revert v; decide
  | unpackRaw s => revert s; decide
  | unpackPb s => revert s; decide
  | dispatch s m => cases m <;> revert s <;> decide
  | pbNop | pbLit _ | pbRep _ | rawByte _ => cases hi

theorem format_of_modeOf (h : modeOf i ≠ none) : i.format = .cmd32 := by
  cases i with
  | fill _ | unpackRaw _ | unpackPb _ | dispatch _ _ => rfl
  | pbNop | pbLit _ | pbRep _ | rawByte _ => exact absurd rfl h

/-- A command whose ranges hold is accepted: it starts (40_command_interface.md R135). -/
theorem acceptCommand_of_rangesOk (hi : i.format = .cmd32) (hr : s.rangesOk i = true) :
    acceptCommand (commandWord i) s = startCommand i (latchCommand (commandWord i) s) := by
  simp [acceptCommand, decodeCommand_commandWord hi, hr]

/-- A command whose ranges do not hold is rejected (40_command_interface.md R135). -/
theorem acceptCommand_of_not_rangesOk (hi : i.format = .cmd32) (hr : s.rangesOk i = false) :
    acceptCommand (commandWord i) s = rejectCommand (latchCommand (commandWord i) s) := by
  simp [acceptCommand, decodeCommand_commandWord hi, hr]

/-- Acceptance changes no capacity, length register, SRC or the host's part (40_command_interface.md R135). -/
theorem acceptCommand_surroundings (w : Word) (s : State) : s.sameSurroundings (acceptCommand w s) := by
  obtain ⟨i, -, -, he⟩ | ⟨-, he⟩ := acceptCommand_cases w s
  · rw [he]; exact ⟨rfl, rfl, rfl, rfl, rfl, rfl, rfl, rfl, rfl⟩
  · rw [he]; exact ⟨rfl, rfl, rfl, rfl, rfl, rfl, rfl, rfl, rfl⟩

/-- A run changes nothing that no micro-step changes. -/
theorem runCommand_surroundings (h : runCommand i s = .next t) : s.sameSurroundings t := by
  obtain ⟨-, rfl⟩ | ⟨-, hrun⟩ := runCommand_cases h
  · exact ⟨rfl, rfl, rfl, rfl, rfl, rfl, rfl, rfl, rfl⟩
  · exact runEngine_keeps (fun _ _ hu hm => sameSurroundings_trans hu (moves_surroundings hm))
      (acceptCommand_surroundings _ s) hrun

/-! ### The frame -/

/-- A command stays in its own states until it is idle again (10_state.md R27). -/
theorem moves_runsIn (h : Moves s t) (hr : runsIn i s.fsm = true) : runsIn i t.fsm = true ∨ t.fsm = .idle := by
  have hpb (hs : isPackBits s.fsm = true) {f : Fsm} (hf : isPackBits f = true) : runsIn i f = true :=
    runsIn_of_isPackBits hr hs hf
  cases h with
  | idle _ | fillByte _ _ _ | rawByte _ _ _ _ _ => exact .inl hr
  | fillEnd _ _ | rawEnd _ _ | rawFull _ _ _ _ | streamEnd _ _ | litFull _ _ _ _ | litShort _ _ | fetchShort _ _
  | repFull _ _ => exact .inr rfl
  | control hf _ _ =>
    left
    cases decodeControl (s.srcByte s.readAddr) with
    | pbNop | pbLit _ | pbRep _ => exact hpb (by simp [hf, isPackBits]) rfl
    | fill _ | unpackRaw _ | unpackPb _ | dispatch _ _ | rawByte _ => exact hr
  | noop hf | fetchValue hf _ _ => exact .inl (hpb (by simp [hf, isPackBits]) rfl)
  | litByte hf _ _ _ _ | repByte hf _ _ =>
    left
    rw [countDown_fsm]
    split
    · exact hpb (by simp [hf, isPackBits]) rfl
    · exact hr

/-- Only the PackBits decoder writes CTRL, CNT and REPV (10_state.md R21). -/
theorem moves_hidden (h : Moves s t) (hn : isPackBits s.fsm = false) :
    t.ctrl = s.ctrl ∧ t.cnt = s.cnt ∧ t.repv = s.repv := by
  cases h with
  | control hf _ _ | noop hf | litByte hf _ _ _ _ | fetchValue hf _ _ | repByte hf _ _ => simp [hf, isPackBits] at hn
  | _ => exact ⟨rfl, rfl, rfl⟩

/-- A command i under way that has begun in s: where it may have stored, what it leaves, and its write cursor's slot. -/
structure CommandRun (i : Instr) (s u : State) : Prop where
  engine : runsIn i u.fsm = true ∨ u.fsm = .idle
  slot : modeOf i ≠ none → u.wr.toNat % 4 = slotOf i
  dstLen : u.dstLen = s.dstLen
  bytes : ∀ a, (s.dstLen.toNat ≤ a ∨ (modeOf i ≠ none ∧ a % 4 ≠ slotOf i)) → u.dstByte a = s.dstByte a
  hidden : modeOf i ≠ some .packBits → u.ctrl = s.ctrl ∧ u.cnt = s.cnt ∧ u.repv = s.repv

theorem commandRun_start (hi : i.format = .cmd32) (w : Word) (s : State) :
    CommandRun i s (startCommand i (latchCommand w s)) where
  engine := .inl (runsIn_startFsm hi)
  slot _ := by simp [Nat.mod_eq_of_lt (slotOf_lt_four i)]
  dstLen := rfl
  bytes _ _ := rfl
  hidden _ := ⟨rfl, rfl, rfl⟩

/-- A command that does not read PackBits is in no PackBits state. -/
theorem not_isPackBits_of_runsIn {f : Fsm} (h : runsIn i f = true ∨ f = .idle) (hm : modeOf i ≠ some .packBits) :
    isPackBits f = false := by
  obtain h | rfl := h
  · unfold runsIn at h
    split at h
    · cases of_decide_eq_true h; rfl
    · cases of_decide_eq_true h; rfl
    · next hpb => exact absurd hpb hm
  · rfl

theorem commandRun_of_moves (h : CommandRun i s u) (hm : Moves u t) : CommandRun i s t where
  engine := by
    obtain hr | hidle := h.engine
    · exact moves_runsIn hm hr
    · exact .inr ((moves_fsm hm).1 hidle)
  slot hmode := by
    have hslot := h.slot hmode
    obtain hwr | ⟨hwr, inside⟩ := moves_wr hm
    · rw [hwr]; exact hslot
    · have hf : u.fsm ≠ .filling := by
        intro hf
        obtain hr | hidle := h.engine
        · exact hmode ((modeOf_eq_none_iff hr).2 hf)
        · cases hf.symm.trans hidle
      have hadd : (u.wr + 4).toNat = u.wr.toNat + 4 := wr_add_toNat inside (by decide)
      rw [hwr, if_neg hf, hadd, Nat.add_mod_right, hslot]
  dstLen := by
    obtain ⟨-, -, -, hlen, -⟩ := moves_surroundings hm
    exact hlen.symm.trans h.dstLen
  bytes a ha := by
    refine Eq.trans ?_ (h.bytes a ha)
    obtain hsame | ⟨hwr, hlt, -⟩ := moves_dstByte hm a
    · exact hsame
    · obtain hle | ⟨hmode, hne⟩ := ha
      · exact absurd (h.dstLen ▸ hlt) (Nat.not_lt.2 hle)
      · exact absurd (hwr ▸ h.slot hmode) hne
  hidden hmode := by
    obtain ⟨hctrl, hcnt, hrepv⟩ := h.hidden hmode
    obtain ⟨h1, h2, h3⟩ := moves_hidden hm (not_isPackBits_of_runsIn h.engine hmode)
    exact ⟨h1.trans hctrl, h2.trans hcnt, h3.trans hrepv⟩

/-- A command whose ranges hold runs inside its frame, whatever the engine's state was before. -/
theorem commandRun_of_rangesOk (hi : i.format = .cmd32) (hb : s.status.busy = false) (hr : s.rangesOk i = true)
    (h : runCommand i s = .next t) : CommandRun i s t := by
  rw [runCommand_of_not_busy i hb, acceptCommand_of_rangesOk hi hr] at h
  exact runEngine_keeps (fun _ _ => commandRun_of_moves) (commandRun_start hi _ s) h

/-- A command that finds the engine idle, and its ranges not to hold, ends at its acceptance (60_exceptions.md R263). -/
theorem runCommand_of_not_rangesOk (hi : i.format = .cmd32) (hb : s.status.busy = false) (hf : s.fsm = .idle)
    (hr : s.rangesOk i = false) : runCommand i s = .next (rejectCommand (latchCommand (commandWord i) s)) := by
  rw [runCommand_of_not_busy i hb, acceptCommand_of_not_rangesOk hi hr]
  exact runEngine_stop (by simp [hf, commandEnded])

/-- Settles O42: an ignored or rejected command stores nothing, an accepted one runs inside its frame. -/
theorem commandFrame : Obligations.CommandFrame := by
  intro i s t hi hidle h
  rw [exec_command hi] at h
  refine ⟨runCommand_surroundings h, ?_⟩
  cases hb : s.status.busy with
  | true =>
    cases (runCommand_of_busy i hb).symm.trans h
    exact ⟨fun _ _ => rfl, fun _ => ⟨rfl, rfl, rfl⟩⟩
  | false =>
    cases hr : s.rangesOk i with
    | true =>
      have hrun := commandRun_of_rangesOk hi hb hr h
      exact ⟨hrun.bytes, hrun.hidden⟩
    | false =>
      cases (runCommand_of_not_rangesOk hi hb (hidle hb) hr).symm.trans h
      exact ⟨fun _ _ => rfl, fun _ => ⟨rfl, rfl, rfl⟩⟩

end Sys2Proof.Machine
end


/-! SUPPORT. What a command reads: with other contents of SRC outside its channel, and with any other contents of DST,
it makes the same moves and the same writes. -/
section
namespace Sys2Proof.Machine

variable {s t u : State} {i : Instr}

/-! ### The same run over other RAM contents -/

/-- A memory after one write for each listed cell, in order. -/
def Memory.writeAll (m : Memory) (ws : List Host.Cell) : Memory := ws.foldl (fun n c => n.write c.1 c.2) m

theorem Memory.writeAll_append (m : Memory) (ws vs : List Host.Cell) :
    m.writeAll (ws ++ vs) = (m.writeAll ws).writeAll vs := List.foldl_append

/-- The same writes over two memories that read alike at an address leave them reading alike there; x stands for a
byte that nobody has written. -/
theorem Memory.getD_writeAll_congr {m n : Memory} {a : Nat} {x : Byte} (h : (m.get? a).getD x = (n.get? a).getD x)
    (ws : List Host.Cell) : ((m.writeAll ws).get? a).getD x = ((n.writeAll ws).get? a).getD x := by
  induction ws generalizing m n with
  | nil => exact h
  | cons c ws ih =>
    refine ih ?_
    rw [Memory.get?_write, Memory.get?_write]
    split
    · rfl
    · exact h

/-- A state with other contents of SRC and DST. -/
def State.withRams (s : State) (m d : Memory) : State := { s with src := m, dst := d }

/-- Where a channel is being read, other contents of SRC hold the same bytes in it (20_memory.md R65). -/
def State.ReadsAlike (s : State) (m : Memory) : Prop :=
  s.fsm ≠ .idle → s.fsm ≠ .filling → ∀ k, k < s.srcLen.toNat →
    State.srcByte { s with src := m } (s.srcOff.toNat + k) = s.srcByte (s.srcOff.toNat + k)

/-- The byte at RD is the same in contents that hold the channel's bytes. -/
theorem srcByte_readAddr {m : Memory} (h : s.ReadsAlike m) (d : Memory) (hn : s.fsm ≠ .idle) (hf : s.fsm ≠ .filling)
    (input : s.rd.toNat < s.srcLen.toNat) : (s.withRams m d).srcByte s.readAddr = s.srcByte s.readAddr :=
  h hn hf _ input

theorem readsAlike_of_moves {m : Memory} (h : s.ReadsAlike m) (hm : Moves s t) : t.ReadsAlike m := by
  obtain ⟨-, ho, hl, -, hs, he, -⟩ := moves_surroundings hm
  obtain ⟨hidle, hfill⟩ := moves_fsm hm
  intro hn hf
  have hsrc := h (mt hidle hn) fun hs => (hfill hs).elim hf hn
  simpa only [State.srcByte, ho, hl, hs, he] using hsrc

theorem openPacket_dst (i : Instr) (s : State) : (openPacket i s).dst = s.dst := by
  cases i <;> rfl

theorem openPacket_withRams (i : Instr) (s : State) (m d : Memory) :
    openPacket i (s.withRams m d) = (openPacket i s).withRams m d := by
  cases i <;> rfl

/-- A micro-step over other contents is the same step, with the same writes of DST. -/
theorem moves_withRams (h : Moves s t) : ∃ ws : List Host.Cell, t.dst = s.dst.writeAll ws ∧
    ∀ m d, s.ReadsAlike m → Moves (s.withRams m d) (t.withRams m (d.writeAll ws)) := by
  cases h with
  | idle hf => exact ⟨[], rfl, fun m d _ => .idle hf⟩
  | fillByte hf room inside =>
    exact ⟨[(s.wr.toNat, fillvField s.cmd)], rfl, fun m d _ => .fillByte hf room inside⟩
  | fillEnd hf full => exact ⟨[], rfl, fun m d _ => .fillEnd hf full⟩
  | rawByte hf input readable room inside =>
    refine ⟨[(s.wr.toNat, s.srcByte s.readAddr)], rfl, fun m d h => ?_⟩
    rw [← srcByte_readAddr h d (by simp [hf]) (by simp [hf]) input]
    exact .rawByte hf input readable room inside
  | rawFull hf input readable full =>
    exact ⟨[], rfl, fun m d _ => .rawFull hf input readable full⟩
  | rawEnd hf out => exact ⟨[], rfl, fun m d _ => .rawEnd hf out⟩
  | control hf input readable =>
    refine ⟨[], openPacket_dst _ s, fun m d h => ?_⟩
    rw [← srcByte_readAddr h d (by simp [hf]) (by simp [hf]) input]
    exact openPacket_withRams _ s m d ▸ .control hf input readable
  | streamEnd hf out => exact ⟨[], rfl, fun m d _ => .streamEnd hf out⟩
  | noop hf => exact ⟨[], rfl, fun m d _ => .noop hf⟩
  | litByte hf input readable room inside =>
    refine ⟨[(s.wr.toNat, s.srcByte s.readAddr)], rfl, fun m d h => ?_⟩
    rw [← srcByte_readAddr h d (by simp [hf]) (by simp [hf]) input]
    exact .litByte hf input readable room inside
  | litFull hf input readable full =>
    exact ⟨[], rfl, fun m d _ => .litFull hf input readable full⟩
  | litShort hf out => exact ⟨[], rfl, fun m d _ => .litShort hf out⟩
  | fetchValue hf input readable =>
    refine ⟨[], rfl, fun m d h => ?_⟩
    rw [← srcByte_readAddr h d (by simp [hf]) (by simp [hf]) input]
    exact .fetchValue hf input readable
  | fetchShort hf out => exact ⟨[], rfl, fun m d _ => .fetchShort hf out⟩
  | repByte hf room inside =>
    exact ⟨[(s.wr.toNat, s.repv)], rfl, fun m d _ => .repByte hf room inside⟩
  | repFull hf full => exact ⟨[], rfl, fun m d _ => .repFull hf full⟩

/-- A run over other contents is the same run, with the same writes of DST. -/
theorem runEngine_withRams {stop : Fsm → Bool} {n : Nat} (h : runEngine stop n s = .next t) :
    ∃ ws : List Host.Cell, t.dst = s.dst.writeAll ws ∧
      ∀ m d, s.ReadsAlike m → runEngine stop n (s.withRams m d) = .next (t.withRams m (d.writeAll ws)) := by
  induction n generalizing s with
  | zero => cases h; exact ⟨[], rfl, fun _ _ _ => rfl⟩
  | succ n ih =>
    cases hstop : stop s.fsm with
    | true => cases (runEngine_stop hstop).symm.trans h; exact ⟨[], rfl, fun m d _ => runEngine_stop hstop⟩
    | false =>
      simp only [runEngine, hstop] at h
      obtain ⟨u, hu, hrest⟩ := andThen_eq_next.1 h
      have hm := microStep_moves hu
      obtain ⟨ws, hws, hmove⟩ := moves_withRams hm
      obtain ⟨vs, hvs, hrun⟩ := ih hrest
      refine ⟨ws ++ vs, by rw [hvs, hws, Memory.writeAll_append], fun m d halike => ?_⟩
      rw [runEngine_succ (s := s.withRams m d) hstop (hmove m d halike), hrun m _ (readsAlike_of_moves halike hm),
        Memory.writeAll_append]

/-! ### A command's channel -/

/-- Acceptance reads neither RAM (40_command_interface.md R135). -/
theorem acceptCommand_withRams (w : Word) (s : State) (m d : Memory) :
    acceptCommand w (s.withRams m d) = (acceptCommand w s).withRams m d := by
  unfold acceptCommand
  split
  · rw [rangesOk_congr (s := s) (t := s.withRams m d) rfl rfl rfl rfl]
    split <;> rfl
  · rfl

theorem acceptCommand_dst (w : Word) (s : State) : (acceptCommand w s).dst = s.dst := by
  obtain ⟨i, -, -, he⟩ | ⟨-, he⟩ := acceptCommand_cases w s
  · rw [he]; rfl
  · rw [he]; rfl

/-- An accepted command reads alike over contents that hold its channel's bytes, FILL over any. -/
theorem readsAlike_acceptCommand {m : Memory} (hi : i.format = .cmd32) (hf : s.fsm = .idle)
    (h : modeOf i ≠ none → ∀ k, k < s.srcLen.toNat →
      State.srcByte { s with src := m } (s.srcOff.toNat + k) = s.srcByte (s.srcOff.toNat + k)) :
    (acceptCommand (commandWord i) s).ReadsAlike m := by
  cases hr : s.rangesOk i with
  | true =>
    rw [acceptCommand_of_rangesOk hi hr]
    exact fun _ hn => h (mt (modeOf_eq_none_iff (runsIn_startFsm hi)).1 hn)
  | false =>
    rw [acceptCommand_of_not_rangesOk hi hr]
    exact fun hn => absurd hf hn

/-- Settles O41: a command's run over the other contents of SRC is the same run. -/
theorem commandsReadOnlyTheirChannel : Obligations.CommandsReadOnlyTheirChannel := by
  intro i s m hi hidle halike
  rw [exec_command hi, exec_command hi]
  refine ⟨runCommand_of_idle i hidle, fun t ht => ?_⟩
  cases hb : s.status.busy with
  | true =>
    cases (runCommand_of_busy i hb).symm.trans ht
    exact runCommand_of_busy i hb
  | false =>
    rw [runCommand_of_not_busy i hb] at ht
    obtain ⟨ws, hws, hrun⟩ := runEngine_withRams ht
    rw [acceptCommand_dst] at hws
    calc runCommand i (s.withRams m s.dst)
      _ = runEngine commandEnded (commandBound (acceptCommand (commandWord i) s))
            ((acceptCommand (commandWord i) s).withRams m s.dst) := by
          rw [runCommand_of_not_busy (s := s.withRams m s.dst) i hb, acceptCommand_withRams]; rfl
      _ = .next (t.withRams m (s.dst.writeAll ws)) :=
          hrun m s.dst (readsAlike_acceptCommand hi (hidle hb) halike)
      _ = .next { t with src := m } := by rw [← hws]; rfl

end Sys2Proof.Machine
end


/-! SUPPORT. Two channel commands with distinct slots: each leaves the other's bytes of DST as they were, and writes its
own bytes whatever DST held. -/
section
namespace Sys2Proof.Machine

variable {s t u : State} {i j : Instr}

/-! ### Accepted commands, and commands that succeed -/

/-- A command that runs from s to t and is accepted, whatever the engine's state was before. -/
structure Accepted (i : Instr) (s t : State) : Prop where
  format : i.format = .cmd32
  notBusy : s.status.busy = false
  ranges : s.rangesOk i = true
  run : runCommand i s = .next t

theorem commandRun_of_accepted (h : Accepted i s t) : CommandRun i s t :=
  commandRun_of_rangesOk h.format h.notBusy h.ranges h.run

/-- DONE stands for a command that has ended (40_command_interface.md R137). -/
def State.DoneIsIdle (s : State) : Prop := s.status.done = true → s.fsm = .idle ∧ s.status.busy = false

theorem doneIsIdle_of_moves (h : s.DoneIsIdle) (hm : Moves s t) : t.DoneIsIdle := by
  cases hm with
  | idle _ => exact h
  | fillEnd _ _ | rawEnd _ _ | streamEnd _ _ => exact fun _ => ⟨rfl, rfl⟩
  | rawFull _ _ _ _ | litFull _ _ _ _ | litShort _ _ | fetchShort _ _ | repFull _ _ => exact nofun
  | fillByte hf _ _ | rawByte hf _ _ _ _ | noop hf | litByte hf _ _ _ _ | fetchValue hf _ _ | repByte hf _ _ =>
    exact fun hd => absurd (h hd).1 (by simp [hf])
  | control hf _ _ =>
    cases decodeControl (s.srcByte s.readAddr) <;> exact fun hd => absurd (h hd).1 (by simp [hf])

theorem acceptCommand_done (w : Word) (s : State) : (acceptCommand w s).status.done = false := by
  obtain ⟨i, -, -, he⟩ | ⟨-, he⟩ := acceptCommand_cases w s
  · rw [he]; rfl
  · rw [he]; rfl

/-- A command that ends with DONE = 1 has ended: the engine is idle (40_command_interface.md R137). -/
theorem doneIsIdle_of_runCommand (hb : s.status.busy = false) (h : runCommand i s = .next t) : t.DoneIsIdle := by
  rw [runCommand_of_not_busy i hb] at h
  exact runEngine_keeps (fun _ _ => doneIsIdle_of_moves) (fun hd => by simp [acceptCommand_done] at hd) h

/-- A command that finds the engine idle and succeeds was accepted (60_exceptions.md R263). -/
theorem accepted_of_done (hi : i.format = .cmd32) (hb : s.status.busy = false) (hf : s.fsm = .idle)
    (h : runCommand i s = .next t) (hd : t.status.done = true) : Accepted i s t := by
  cases hr : s.rangesOk i with
  | true => exact ⟨hi, hb, hr, h⟩
  | false =>
    cases (runCommand_of_not_rangesOk hi hb hf hr).symm.trans h
    simp at hd

/-! ### What a command writes does not depend on DST -/

/-- Two states in which a command sees the same channel and the same buffer length. -/
structure State.SameChannel (s u : State) : Prop where
  config : u.config = s.config
  srcOff : u.srcOff = s.srcOff
  srcLen : u.srcLen = s.srcLen
  dstLen : u.dstLen = s.dstLen
  src : u.src = s.src
  ramEpoch : u.ramEpoch = s.ramEpoch

/-- Two starts of one command that see the same channel differ in hidden registers, the host's part and DST alone. -/
theorem startCommand_withRams (i : Instr) (w : Word) (hb : u.status.busy = s.status.busy) (h : s.SameChannel u) :
    startCommand i (latchCommand w u) =
      ((startCommand i (latchCommand w s)).withHiddenOf u).withRams s.src u.dst := by
  simp [startCommand, latchCommand, State.withHiddenOf, State.withRams, Status.cleared_congr hb, h.config, h.srcOff,
    h.srcLen, h.dstLen, h.src, h.ramEpoch]

/-- An accepted command ends with the same byte of DST at an address where it began with the same byte, whatever the
registers and the rest of DST held (20_memory.md R71). -/
theorem dstByte_congr_of_accepted {v : State} (ht : Accepted i s t) (hv : Accepted i u v) (h : s.SameChannel u)
    {a : Nat} (ha : s.dstByte a = u.dstByte a) : t.dstByte a = v.dstByte a := by
  have hrun := ht.run
  rw [runCommand_of_not_busy i ht.notBusy, acceptCommand_of_rangesOk ht.format ht.ranges] at hrun
  have hagree := State.Agrees.of_not_counting (s := startCommand i (latchCommand (commandWord i) s)) u
    (isCounting_startFsm i)
  obtain ⟨x, hx, htx⟩ := runEngine_agrees hagree hrun
  obtain ⟨ws, hws, hsame⟩ := runEngine_withRams hx
  have hend : runCommand i u = .next (x.withRams s.src (u.dst.writeAll ws)) := by
    rw [runCommand_of_not_busy i hv.notBusy, acceptCommand_of_rangesOk hv.format hv.ranges,
      startCommand_withRams i _ (hv.notBusy.trans ht.notBusy.symm) h]
    exact hsame s.src u.dst fun _ _ _ _ => rfl
  cases hend.symm.trans hv.run
  obtain ⟨-, -, -, -, -, hepoch, -⟩ := runCommand_surroundings ht.run
  obtain ⟨d, -, -⟩ := htx
  have hdst : t.dst = s.dst.writeAll ws := hws
  have ha' : (s.dst.get? a).getD (Config.dstAfterReset t.ramEpoch a) =
      (u.dst.get? a).getD (Config.dstAfterReset t.ramEpoch a) := by
    simpa only [State.dstByte, h.ramEpoch, hepoch] using ha
  calc t.dstByte a
    _ = ((s.dst.writeAll ws).get? a).getD (Config.dstAfterReset t.ramEpoch a) := by rw [State.dstByte, hdst]
    _ = ((u.dst.writeAll ws).get? a).getD (Config.dstAfterReset t.ramEpoch a) := Memory.getD_writeAll_congr ha' ws

/-! ### The two orders -/

/-- A state with the length registers set to a channel. -/
def State.withChannel (s : State) (o l : Word) : State := { s with srcOff := o, srcLen := l }

/-- In either order the bytes outside j's slot are those of i's command (20_memory.md R71). -/
theorem dstByte_of_two_orders {t' u' : State} {oi li oj lj : Word} (h₁ : Accepted i (s.withChannel oi li) t)
    (h₂ : Accepted j (t.withChannel oj lj) u) (h₁' : Accepted j (s.withChannel oj lj) t')
    (h₂' : Accepted i (t'.withChannel oi li) u') (hj : modeOf j ≠ none) {a : Nat} (ha : a % 4 ≠ slotOf j) :
    u.dstByte a = u'.dstByte a := by
  have hu : u.dstByte a = t.dstByte a := (commandRun_of_accepted h₂).bytes a (.inr ⟨hj, ha⟩)
  have ht' : t'.dstByte a = s.dstByte a := (commandRun_of_accepted h₁').bytes a (.inr ⟨hj, ha⟩)
  obtain ⟨hc, -, -, hd, hsrc, he, -⟩ := runCommand_surroundings h₁'.run
  have hsame : (s.withChannel oi li).SameChannel (t'.withChannel oi li) :=
    ⟨hc.symm, rfl, rfl, hd.symm, hsrc.symm, he.symm⟩
  exact hu.trans (dstByte_congr_of_accepted h₁ h₂' hsame ht'.symm)

/-- The check of a second command's ranges is not changed by a first one. -/
theorem accepted_first {t' : State} {oi li oj lj : Word} (hb : s.status.busy = false)
    (hrun : runCommand i (s.withChannel oi li) = .next t) (h : Accepted j (t.withChannel oj lj) u)
    (hj : runCommand j (s.withChannel oj lj) = .next t') : Accepted j (s.withChannel oj lj) t' := by
  obtain ⟨hc, -, -, hd, -⟩ := runCommand_surroundings hrun
  have hr := rangesOk_congr (i := j) (s := t.withChannel oj lj) (t := s.withChannel oj lj) hc hd rfl rfl
  exact ⟨h.format, hb, hr.trans h.ranges, hj⟩

/-- Settles O43: each byte of DST lies outside the slot of one of the two commands, whose frame it is in. -/
theorem distinctSlotsCommute : Obligations.DistinctSlotsCommute := by
  intro i j s t u t' u' oi li oj lj hi hj hne h₁ h₂ h₁' h₂' ht hu ht' hu' a
  have hfi := format_of_modeOf hi
  have hfj := format_of_modeOf hj
  rw [exec_command hfi] at h₁ h₂'
  rw [exec_command hfj] at h₂ h₁'
  cases hb : s.status.busy with
  | true =>
    cases (runCommand_of_busy i (s := s.withChannel oi li) hb).symm.trans h₁
    cases (runCommand_of_busy j (s := s.withChannel oj lj) hb).symm.trans h₂
    cases (runCommand_of_busy j (s := s.withChannel oj lj) hb).symm.trans h₁'
    cases (runCommand_of_busy i (s := s.withChannel oi li) hb).symm.trans h₂'
    rfl
  | false =>
    obtain ⟨hf, hb₁⟩ := doneIsIdle_of_runCommand (s := s.withChannel oi li) hb h₁ ht
    obtain ⟨hf', hb₁'⟩ := doneIsIdle_of_runCommand (s := s.withChannel oj lj) hb h₁' ht'
    have a₂ : Accepted j (t.withChannel oj lj) u := accepted_of_done hfj hb₁ hf h₂ hu
    have a₂' : Accepted i (t'.withChannel oi li) u' := accepted_of_done hfi hb₁' hf' h₂' hu'
    have a₁ : Accepted i (s.withChannel oi li) t := accepted_first hb h₁' a₂' h₁
    have a₁' : Accepted j (s.withChannel oj lj) t' := accepted_first hb h₁ a₂ h₁'
    by_cases ha : a % 4 = slotOf j
    · exact (dstByte_of_two_orders a₁' a₂' a₁ a₂ hi fun h => hne (h.symm.trans ha)).symm
    · exact dstByte_of_two_orders a₁ a₂ a₁' a₂' hj ha

end Sys2Proof.Machine
end


/-! SUPPORT. The encodings and the decoder are inverse to each other: a command row's words are its match with the
operand fields in the places the mask leaves open, and the three classes partition the control bytes. -/
section
namespace Sys2Proof.Machine

/-! ### Command words: the match with the operand fields at their places -/

/-- A field of a word at its place is the word masked to that place. -/
theorem extract_shift (w : Word) (k n : Nat) :
    (w.extractLsb' k n).setWidth 32 <<< k = w &&& (BitVec.allOnes n).setWidth 32 <<< k := by
  ext i hi
  rw [BitVec.getElem_and, BitVec.getElem_shiftLeft, BitVec.getElem_shiftLeft]
  by_cases hk : i < k
  · simp [hk]
  · have hsum : k + (i - k) = i := by omega
    simp [hk, hsum, hi, Bool.and_comm]

/-- A word that selects a row is the row's match with the word's own bits where the mask has none. -/
theorem eq_of_selects {r : Row} {w : Word} (h : r.selects w = true) : w = r.pattern ||| w &&& ~~~r.mask := by
  have hw : w &&& r.mask = r.pattern := beq_iff_eq.mp h
  rw [← hw]
  ext i hi
  cases hm : r.mask[i] <;> simp [hm]

/-! The words as 30_encoding.md R92 writes them. -/

theorem fillWord_eq (v : Byte) : fillWord v = 0x00000001 ||| (v.setWidth 32 <<< 8) := by
  revert v; decide

theorem unpackRawWord_eq (s : Slot) : unpackRawWord s = 0x02 ||| (s.setWidth 32 <<< 4) := by
  revert s; decide

theorem unpackPbWord_eq (s : Slot) : unpackPbWord s = 0x03 ||| (s.setWidth 32 <<< 4) := by
  revert s; decide

theorem dispatchWord_eq (s : Slot) (m : Mode) :
    dispatchWord s m = 0x04 ||| (s.setWidth 32 <<< 4) ||| ((modeBit m).setWidth 32 <<< 6) := by
  cases m <;> revert s <;> decide

theorem modeBit_modeField (w : Word) : modeBit (modeField w) = w.extractLsb' 6 1 := by
  refine BitVec.eq_of_getLsbD_eq fun i hi => ?_
  obtain rfl : i = 0 := by omega
  rw [BitVec.getLsbD_extractLsb', modeField]
  cases w.getLsbD 6 <;> rfl

/-! A word that selects a row is the row's word of the fields decoded from it. -/

theorem fillWord_of_selects {w : Word} (h : rowFill.selects w = true) : fillWord (fillvField w) = w := by
  rw [fillWord_eq, fillvField, extract_shift]
  exact (eq_of_selects h).symm

theorem unpackRawWord_of_selects {w : Word} (h : rowUnpackRaw.selects w = true) :
    unpackRawWord (slotField w) = w := by
  rw [unpackRawWord_eq, slotField, extract_shift]
  exact (eq_of_selects h).symm

theorem unpackPbWord_of_selects {w : Word} (h : rowUnpackPb.selects w = true) : unpackPbWord (slotField w) = w := by
  rw [unpackPbWord_eq, slotField, extract_shift]
  exact (eq_of_selects h).symm

theorem dispatchWord_of_selects {w : Word} (h : rowDispatch.selects w = true) :
    dispatchWord (slotField w) (modeField w) = w := by
  rw [dispatchWord_eq, modeBit_modeField, slotField, extract_shift, extract_shift, BitVec.or_assoc,
    ← BitVec.and_or_distrib_left]
  exact (eq_of_selects h).symm

/-- Everything a command word can decode to: the command whose word it is (30_encoding.md R92). -/
theorem decodeCommand_eq_ok {w : Word} {i : Instr} :
    decodeCommand w = .ok i ↔ i.format = .cmd32 ∧ commandWord i = w := by
  refine ⟨fun h => ⟨decodeCommand_format h, ?_⟩, ?_⟩
  · unfold decodeCommand at h
    split_ifs at h with hfill hraw hpb hdispatch <;> cases h
    · exact fillWord_of_selects hfill
    · exact unpackRawWord_of_selects hraw
    · exact unpackPbWord_of_selects hpb
    · exact dispatchWord_of_selects hdispatch
  · rintro ⟨hi, rfl⟩
    exact decodeCommand_commandWord hi

/-! ### Rows -/

/-- A row selects exactly the words that decode to its commands, if it selects exactly their words. -/
theorem masked_iff_decodes {α : Type} {r : Row} {f : α → Instr} (hf : ∀ a, (f a).format = .cmd32)
    (hwords : ∀ a, r.selects (commandWord (f a)) = true) {w : Word}
    (honly : r.selects w = true → ∃ a, commandWord (f a) = w) :
    w &&& r.mask = r.pattern ↔ ∃ a, decodeCommand w = .ok (f a) := by
  refine ⟨fun h => ?_, ?_⟩
  · obtain ⟨a, ha⟩ := honly (beq_iff_eq.mpr h)
    exact ⟨a, decodeCommand_eq_ok.mpr ⟨hf a, ha⟩⟩
  · rintro ⟨a, h⟩
    obtain ⟨-, rfl⟩ := decodeCommand_eq_ok.mp h
    exact beq_iff_eq.mp (hwords a)

theorem dispatchWord_selected (s : Slot) (m : Mode) : rowDispatch.selects (dispatchWord s m) = true := by
  cases m <;> revert s <;> decide

/-- The match of a row that a word selects is the word's OP: every mask covers CMD[3:0] (30_encoding.md R91). -/
theorem pattern_of_selects {r : Row} {w : Word} (hr : r ∈ commandRows) (h : r.selects w = true) :
    r.pattern = w &&& 0xF := by
  have hop : ∀ q ∈ commandRows, q.mask &&& 0xF = 0xF ∧ q.pattern &&& 0xF = q.pattern := by decide
  obtain ⟨hmask, hpattern⟩ := hop r hr
  rw [← hpattern, ← beq_iff_eq.mp h, BitVec.and_assoc, hmask]

/-- At most one row matches any word, for no two rows have the same OP (30_encoding.md R92). -/
theorem length_filter_selects_le_one (w : Word) : (commandRows.filter (fun r => r.selects w)).length ≤ 1 := by
  have hnodup : (commandRows.map Row.pattern).Nodup := by decide
  calc (commandRows.filter (fun r => r.selects w)).length
    _ = commandRows.countP (fun r => r.selects w) := List.countP_eq_length_filter.symm
    _ ≤ commandRows.countP (fun r => r.pattern == w &&& 0xF) :=
      List.countP_mono_left fun r hr h => beq_iff_eq.mpr (pattern_of_selects hr h)
    _ = (commandRows.map Row.pattern).count (w &&& 0xF) := by rw [List.count, List.countP_map]; rfl
    _ ≤ 1 := List.nodup_iff_count_le_one.mp hnodup _

/-! ### Commands as codes -/

/-- The encoding of a command is its word (30_encoding.md R90). -/
theorem encode_command {i : Instr} (h : i.format = .cmd32) : encode i = .cmd32 (commandWord i) := by
  cases i with
  | fill _ | unpackRaw _ | unpackPb _ | dispatch _ _ => rfl
  | pbNop | pbLit _ | pbRep _ | rawByte _ => cases h

theorem decode_encode_command {i : Instr} (h : i.format = .cmd32) : decode (encode i) = .ok i := by
  rw [encode_command h, decode, decodeCommand_commandWord h]

/-- Only a control byte can be ill formed (30_encoding.md R94). -/
theorem wellFormed_of_command {i : Instr} (h : i.format = .cmd32) : i.wellFormed = true := by
  cases i with
  | fill _ | unpackRaw _ | unpackPb _ | dispatch _ _ => rfl
  | pbNop | pbLit _ | pbRep _ | rawByte _ => cases h

/-! ### Control bytes: one equation per class (30_encoding.md R94) -/

theorem decodeControl_literal {c : Byte} (h : c.toNat < 0x80) : decodeControl c = .pbLit (c.setWidth 7) := by
  have hne : c ≠ 0x80 := by rintro rfl; exact absurd h (by decide)
  rw [decodeControl, if_neg hne, if_pos h, BitVec.setWidth_eq_extractLsb' (by decide)]

theorem decodeControl_repeat {c : Byte} (h : 0x81 ≤ c.toNat) : decodeControl c = .pbRep c := by
  have hne : c ≠ 0x80 := by rintro rfl; exact absurd h (by decide)
  have hlt : ¬c.toNat < 0x80 := by omega
  rw [decodeControl, if_neg hne, if_neg hlt]

/-- The three classes partition the control bytes. -/
theorem controlByte_cases (c : Byte) : c.toNat < 0x80 ∨ c = 0x80 ∨ 0x81 ≤ c.toNat := by
  obtain h | h | h := lt_trichotomy c.toNat 0x80
  · exact .inl h
  · exact .inr (.inl (BitVec.eq_of_toNat_eq h))
  · exact .inr (.inr h)

theorem litControl_eq_setWidth (n : BitVec 7) : litControl n = n.setWidth 8 := by
  revert n; decide

theorem encode_decodeControl (c : Byte) : encode (decodeControl c) = .pb8 c := by
  obtain h | rfl | h := controlByte_cases c
  · rw [decodeControl_literal h]
    have hc : litControl (c.setWidth 7) = c := by
      rw [litControl_eq_setWidth]
      bv_omega
    rw [encode, hc]
  · rfl
  · rw [decodeControl_repeat h]; rfl

theorem decodeControl_litControl (n : BitVec 7) : decodeControl (litControl n) = .pbLit n := by
  rw [litControl_eq_setWidth, decodeControl_literal (by simp; omega)]
  simp

/-! ### The obligations -/

/-- Settles O5: a command by its word, a stream element by the class of its control byte. -/
theorem decodeEncodeRoundTrip : Obligations.DecodeEncodeRoundTrip := by
  intro i hi
  cases i with
  | fill _ | unpackRaw _ | unpackPb _ | dispatch _ _ => exact decode_encode_command rfl
  | pbNop | rawByte _ => rfl
  | pbLit n => exact congrArg Except.ok (decodeControl_litControl n)
  | pbRep c => exact congrArg Except.ok (decodeControl_repeat (of_decide_eq_true hi))

/-- Settles O28: the step takes WAIT's turn, which looks at BUSY. -/
theorem waitPollsBusy : Obligations.WaitPollsBusy := by
  intro s rest hs
  rw [step_of_turn hs]
  exact ⟨fun hb => by simp [takeTurn, hb], fun hb => by simp [takeTurn, hb]⟩

/-- Settles O2: a row's words are the encodings of its commands, and no two rows share an OP. -/
theorem commandRowsSelectTheirWords : Obligations.CommandRowsSelectTheirWords := by
  refine ⟨fun w => ⟨?_, ?_, ?_, ?_⟩, length_filter_selects_le_one, fun v => ?_, fun s => ⟨?_, ?_, ?_, ?_⟩⟩
  · exact masked_iff_decodes (r := rowFill) (f := .fill) (fun _ => rfl) (by decide)
      fun h => ⟨_, fillWord_of_selects h⟩
  · exact masked_iff_decodes (r := rowUnpackRaw) (f := .unpackRaw) (fun _ => rfl) (by decide)
      fun h => ⟨_, unpackRawWord_of_selects h⟩
  · exact masked_iff_decodes (r := rowUnpackPb) (f := .unpackPb) (fun _ => rfl) (by decide)
      fun h => ⟨_, unpackPbWord_of_selects h⟩
  · rw [← Prod.exists (p := fun p => decodeCommand w = .ok (.dispatch p.1 p.2))]
    exact masked_iff_decodes (r := rowDispatch) (f := fun p : Slot × Mode => .dispatch p.1 p.2) (fun _ => rfl)
      (fun p => dispatchWord_selected p.1 p.2) fun h => ⟨(slotField w, modeField w), dispatchWord_of_selects h⟩
  · exact decodeCommand_eq_ok.mpr ⟨rfl, fillWord_eq v⟩
  · exact decodeCommand_eq_ok.mpr ⟨rfl, unpackRawWord_eq s⟩
  · exact decodeCommand_eq_ok.mpr ⟨rfl, unpackPbWord_eq s⟩
  · exact decodeCommand_eq_ok.mpr ⟨rfl, by simp [commandWord, encode, dispatchWord_eq, modeBit]⟩
  · exact decodeCommand_eq_ok.mpr ⟨rfl, by simp [commandWord, encode, dispatchWord_eq, modeBit]⟩

/-- Settles O6: a command word is the word of what it decodes to, a control byte lies in its packet's class. -/
theorem encodeDecodeRoundTrip : Obligations.EncodeDecodeRoundTrip := by
  intro k i h
  cases k with
  | cmd32 w =>
    obtain ⟨hi, rfl⟩ := decodeCommand_eq_ok.mp h
    exact ⟨encode_command hi, wellFormed_of_command hi⟩
  | pb8 c =>
    cases h
    exact ⟨encode_decodeControl c, decodeControl_wellFormed c⟩
  | raw8 b =>
    cases h
    exact ⟨rfl, rfl⟩

/-- Settles O1: each word is the encoding of its instruction. -/
theorem tabledWordsDecode : Obligations.TabledWordsDecode :=
  ⟨decodeEncodeRoundTrip (.fill 0xFF) rfl, decodeEncodeRoundTrip (.unpackRaw 1) rfl,
    decodeEncodeRoundTrip (.unpackPb 2) rfl, decodeEncodeRoundTrip (.dispatch 3 .raw) rfl,
    decodeEncodeRoundTrip (.dispatch 1 .packBits) rfl, decodeEncodeRoundTrip .pbNop rfl,
    decodeEncodeRoundTrip (.pbLit 5) rfl, decodeEncodeRoundTrip (.pbRep 0x81) rfl,
    decodeEncodeRoundTrip (.rawByte 0x80) rfl⟩

/-- Settles O3: the signed value of a control byte tells which of the three classes it lies in. -/
theorem controlBytesHaveThreeClasses : Obligations.ControlBytesHaveThreeClasses := by
  intro c
  have hsigned := BitVec.toInt_eq_toNat_cond c
  refine ⟨fun h => ?_, fun h => ?_, fun hlow hneg => ?_⟩
  · obtain rfl : c = 0x80 := BitVec.eq_of_toInt_eq h
    exact ⟨rfl, rfl⟩
  · have hc : c.toNat < 0x80 := by omega
    rw [decodeControl_literal hc]
    refine ⟨rfl, ?_⟩
    simp only [Instr.streamLength, literalCount, BitVec.toNat_setWidth]
    omega
  · rw [decodeControl_repeat (by omega)]
    exact ⟨rfl, rfl⟩

/-- Settles O4: CNT takes the counts as they are, for both lie in its range. -/
theorem runCountsDoNotWrap : Obligations.RunCountsDoNotWrap := by
  refine fun s => ⟨fun n => ?_, fun c hc => ?_⟩
  · exact ⟨literalCount_toNat n, n.isLt⟩
  · have hcnt : (openRepeat c s).cnt.toNat = 257 - c.toNat := repeatCount_toNat hc
    have hsigned := BitVec.toInt_eq_toNat_cond c
    omega

end Sys2Proof.Machine
end


/-! SUPPORT. The host's accesses to the register window: what a write of each register leaves, and what a read of each
returns. -/
section
namespace Sys2Proof.Machine

variable {s t : State} {o : Nat} {r : Reg} {v : Word} {rest : List Turn}

/-! ### STATUS while a command runs, and after its success -/

/-- STATUS while a command runs: BUSY alone (40_command_interface.md R135). -/
def Status.running : Status where
  busy := true
  done := false
  err := false
  errcode := 0

/-- STATUS after a command's success: DONE alone (40_command_interface.md R137). -/
def Status.succeeded : Status where
  busy := false
  done := true
  err := false
  errcode := 0

@[simp] theorem Status.started_cleared (t : Status) : t.cleared.started = .running := rfl

@[simp] theorem Status.finished_running : Status.running.finished = .succeeded := rfl

/-- A STATUS write finds nothing to clear while a command runs (40_command_interface.md R140). -/
@[simp] theorem Status.acknowledged_running (v : Word) : Status.running.acknowledged v = .running := by
  simp [Status.acknowledged, Status.running]

/-- The flags exclude each other, so a command that runs shows BUSY alone (10_state.md R31). -/
theorem status_of_busy (h : s.Inv) (hb : s.status.busy = true) : s.status = .running := by
  obtain ⟨hdone, herr⟩ := h.oneFlag.1 hb
  have hcode : s.status.errcode = 0 := not_not.1 (mt h.errcodeIff.1 (by simp [herr]))
  calc s.status = ⟨s.status.busy, s.status.done, s.status.err, s.status.errcode⟩ := rfl
    _ = .running := by rw [hb, hdone, herr, hcode]; rfl

/-- A word by the fields that STATUS's view has (40_command_interface.md R132). -/
theorem word_eq_fields (v : Word) :
    v = v.extractLsb' 8 24 ++ v.extractLsb' 4 4 ++ BitVec.ofBool (v.getLsbD 3) ++ BitVec.ofBool (v.getLsbD 2)
      ++ BitVec.ofBool (v.getLsbD 1) ++ BitVec.ofBool (v.getLsbD 0) := by
  refine BitVec.eq_of_getLsbD_eq fun i hi => ?_
  simp only [BitVec.getLsbD_append, BitVec.getLsbD_extractLsb', BitVec.getLsbD_ofBool]
  obtain hlow | hhigh := Nat.lt_or_ge i 8
  · interval_cases i <;> rfl
  · rw [if_neg (by omega), if_neg (by omega), if_neg (by omega), if_neg (by omega), if_neg (by omega),
      show 8 + (i - 1 - 1 - 1 - 1 - 4) = i by omega, decide_eq_true (by omega), Bool.true_and]

/-- The word with STATUS's fields at their places is STATUS's view. -/
theorem Status.word_of_fields {t : Status} (hhigh : v.extractLsb' 8 24 = 0) (hcode : v.extractLsb' 4 4 = t.errcode)
    (hzero : v.getLsbD 3 = false) (herr : v.getLsbD 2 = t.err) (hdone : v.getLsbD 1 = t.done)
    (hbusy : v.getLsbD 0 = t.busy) : v = t.word := by
  rw [word_eq_fields v, hhigh, hcode, hzero, herr, hdone, hbusy]
  rfl

/-! ### Steps that access a register -/

/-- The offset of a register is a well-formed access (20_memory.md R66). -/
theorem regAccessOk_of_regAt (hr : regAt o = some r) : regAccessOk o 4 = true := by
  unfold regAt at hr
  split at hr <;> cases hr <;> rfl

theorem step_writeReg (hs : s.agenda = .writeReg o 4 v :: rest) (hr : regAt o = some r) :
    step s = .next (writeRegister r v { s with agenda := rest }) :=
  (step_of_turn hs).trans (hostWriteReg_eq_next.2 ⟨regAccessOk_of_regAt hr, r, hr, rfl⟩)

theorem step_readReg (hs : s.agenda = .readReg o 4 :: rest) (hr : regAt o = some r) :
    step s = .next { s with
      agenda := rest, draws := s.draws + s.regDraws r
      received := s.received ++ [.reg o (s.regValue r)] } := by
  refine (step_of_turn hs).trans (hostReadReg_eq_next.2 ⟨regAccessOk_of_regAt hr, r, hr, ?_⟩)
  cases r <;> rfl

/-! ### Writes -/

/-- Settles O17: CMD and the length registers look at BUSY first, and STATUS has nothing to clear. -/
theorem registerWritesIgnoredWhileBusy : Obligations.RegisterWritesIgnoredWhileBusy := by
  intro s o v rest hs hb ho
  obtain rfl | rfl | rfl | rfl | ⟨rfl, hinv⟩ := ho
  · rw [step_writeReg hs (r := .cmd) rfl]; simp [writeRegister, hb]
  · rw [step_writeReg hs (r := .srcOff) rfl]; simp [writeRegister, hb]
  · rw [step_writeReg hs (r := .srcLen) rfl]; simp [writeRegister, hb]
  · rw [step_writeReg hs (r := .dstLen) rfl]; simp [writeRegister, hb]
  · rw [step_writeReg hs (r := .status) rfl]
    simp [writeRegister, acknowledge, status_of_busy hinv hb]

/-- Settles O18: the write of a length register looks at BUSY alone. -/
theorem lengthRegistersTakeAnyValue : Obligations.LengthRegistersTakeAnyValue := by
  intro s v rest
  refine ⟨fun hs => ?_, fun hs => ?_, fun hs => ?_⟩
  · rw [step_writeReg hs (r := .srcOff) rfl]; cases hb : s.status.busy <;> simp [writeRegister, hb]
  · rw [step_writeReg hs (r := .srcLen) rfl]; cases hb : s.status.busy <;> simp [writeRegister, hb]
  · rw [step_writeReg hs (r := .dstLen) rfl]; cases hb : s.status.busy <;> simp [writeRegister, hb]

/-- Settles O19: the write of STATUS is `acknowledge`, flag by flag. -/
theorem statusWriteAcknowledges : Obligations.StatusWriteAcknowledges := by
  intro s v rest hs
  rw [step_writeReg hs (r := .status) rfl]
  simp [writeRegister, acknowledge, Status.acknowledged, Bool.and_comm]

/-- Settles O20: a write of these three registers leaves the state as it is. -/
theorem cursorWritesIgnored : Obligations.CursorWritesIgnored := by
  intro s o v rest hs ho
  obtain rfl | rfl | rfl := ho
  · exact step_writeReg hs (r := .rdCur) rfl
  · exact step_writeReg hs (r := .wrCur) rfl
  · exact step_writeReg hs (r := .reserved) rfl

/-! ### Reads -/

/-- A read that draws no free value returns the register's value and leaves the block (40_command_interface.md R132). -/
theorem step_readReg_exact (hs : s.agenda = .readReg o 4 :: rest) (hr : regAt o = some r) (hv : s.regValue r = v)
    (hd : s.regDraws r = 0) :
    step s = .next { s with agenda := rest, received := s.received ++ [.reg o v] } := by
  rw [step_readReg hs hr, hv, hd, Nat.add_zero]

/-- Settles O21: each register's value by its offset; a cursor's value and draw by BUSY. -/
theorem registerReads : Obligations.RegisterReads := by
  refine fun s o rest hs => ⟨fun v hv => ?_, fun hb ho => ?_⟩
  · obtain ⟨rfl, rfl⟩ | ⟨rfl, hhigh, hcode, hzero, herr, hdone, hbusy⟩ | ⟨rfl, hb, hinv, rfl⟩ | ⟨rfl, rfl⟩ |
      ⟨rfl, rfl⟩ | ⟨rfl, rfl⟩ | ⟨rfl, hb, rfl⟩ | ⟨rfl, hb, rfl⟩ | ⟨rfl, rfl⟩ := hv
    · exact step_readReg_exact hs (r := .cmd) rfl rfl rfl
    · exact step_readReg_exact hs (r := .status) rfl
        (Status.word_of_fields hhigh hcode hzero herr hdone hbusy).symm rfl
    · exact step_readReg_exact hs (r := .status) rfl (congrArg Status.word (status_of_busy hinv hb)) rfl
    · exact step_readReg_exact hs (r := .srcOff) rfl rfl rfl
    · exact step_readReg_exact hs (r := .srcLen) rfl rfl rfl
    · exact step_readReg_exact hs (r := .dstLen) rfl rfl rfl
    · exact step_readReg_exact hs (r := .rdCur) rfl (by simp [State.regValue, hb]) (by simp [State.regDraws, hb])
    · exact step_readReg_exact hs (r := .wrCur) rfl (by simp [State.regValue, hb]) (by simp [State.regDraws, hb])
    · exact step_readReg_exact hs (r := .reserved) rfl rfl rfl
  · obtain rfl | rfl := ho
    · rw [step_readReg hs (r := .rdCur) rfl]; simp [State.regDraws, State.regValue, hb]
    · rw [step_readReg hs (r := .wrCur) rfl]; simp [State.regDraws, State.regValue, hb]

end Sys2Proof.Machine
end


/-! SUPPORT. The acceptance of a command word by the word's fields, and the ends of a command that is turned away. -/
section
namespace Sys2Proof.Machine

variable {s : State} {i : Instr} {w : Word}

/-! ### The fields of a command's word (30_encoding.md R91) -/

/-- Only FILL has OP = 1. -/
theorem opField_commandWord_eq_one (hi : i.format = .cmd32) : opField (commandWord i) = 1 ↔ modeOf i = none := by
  cases i with
  | fill v => revert v; decide
  | unpackRaw s | unpackPb s => revert s; decide
  | dispatch s m => revert s; cases m <;> decide
  | pbNop | pbLit _ | pbRep _ | rawByte _ => cases hi

/-- The first values of WR and FSM by the word's fields (40_command_interface.md R135). -/
theorem start_eq_fields (hi : i.format = .cmd32) :
    (startWr i = if opField (commandWord i) = 1 then 0 else (slotField (commandWord i)).setWidth 32) ∧
    startFsm i = if opField (commandWord i) = 1 then .filling else if opField (commandWord i) = 2 then .raw
      else if opField (commandWord i) = 3 then .awaitCtrl
      else if modeField (commandWord i) = .raw then .raw else .awaitCtrl := by
  cases i with
  | fill v => revert v; decide
  | unpackRaw s | unpackPb s => revert s; decide
  | dispatch s m => revert s; cases m <;> decide
  | pbNop | pbLit _ | pbRep _ | rawByte _ => cases hi

/-! ### Acceptance -/

/-- The ranges that a command checks (40_command_interface.md R134). -/
theorem rangesOk_iff (hi : i.format = .cmd32) :
    s.rangesOk i = true ↔ s.dstLen.toNat ≤ s.config.dstCap.val ∧
      (modeOf i = none ∨ s.srcOff.toNat + s.srcLen.toNat ≤ s.config.srcCap.val) := by
  cases i with
  | fill _ | unpackRaw _ | unpackPb _ | dispatch _ _ => simp [State.rangesOk, modeOf]
  | pbNop | pbLit _ | pbRep _ | rawByte _ => cases hi

/-- Settles O15: the word is its command's, and the command's first values are those of the word's fields. -/
theorem cmdWriteStartsCommand : Obligations.CmdWriteStartsCommand := by
  intro s w i rest hs hb hd hbuffer hchannel
  obtain ⟨hi, rfl⟩ := decodeCommand_eq_ok.1 hd
  have hranges : State.rangesOk i { s with agenda := rest } = true :=
    (rangesOk_iff hi).2 ⟨hbuffer, hchannel.imp_left (opField_commandWord_eq_one hi).1⟩
  have hwrite : writeRegister .cmd (commandWord i) { s with agenda := rest } =
      acceptCommand (commandWord i) { s with agenda := rest } := by simp [writeRegister, hb]
  obtain ⟨hwr, hfsm⟩ := start_eq_fields hi
  rw [step_writeReg hs (r := .cmd) rfl, hwrite, acceptCommand_of_rangesOk hi hranges, ← hwr, ← hfsm]
  rfl

/-! ### Commands that are turned away -/

/-- What a rejection leaves: CMD and the cursors written, and IllegalCommand alone in STATUS (60_exceptions.md R263). -/
theorem rejectCommand_latchCommand (hb : s.status.busy = false) (w : Word) :
    rejectCommand (latchCommand w s) = { s with
      cmd := w, rd := 0, wr := 0
      status := { busy := false, done := false, err := true, errcode := 3 } } := by
  simp [rejectCommand, latchCommand, Status.rejected, Status.cleared, ErrorKind.code, hb]

/-- Settles O29: while BUSY = 1 the CMD write is ignored, and where a range does not hold it is rejected. -/
theorem commandsTurnedAway : Obligations.CommandsTurnedAway := by
  refine fun s i hi => ⟨fun hb => ?_, fun hb hf hranges => ?_⟩
  · exact (exec_command hi s).trans (runCommand_of_busy i hb)
  · have hr : s.rangesOk i = false := by
      refine Bool.eq_false_iff.2 fun hok => ?_
      obtain ⟨hbuffer, hchannel⟩ := (rangesOk_iff hi).1 hok
      obtain hlong | ⟨hmode, hlong⟩ := hranges
      · omega
      · exact absurd (hchannel.resolve_left hmode) (Nat.not_le.2 hlong)
    rw [exec_command hi, runCommand_of_not_rangesOk hi hb hf hr, rejectCommand_latchCommand hb]

end Sys2Proof.Machine
end


/-! SUPPORT. The bound of a command: a measure that every micro-step of a running command lowers, and STATUS at the
command's end. -/
section
namespace Sys2Proof.Machine

variable {s t : State} {i : Instr}

/-! ### The micro-steps that are left -/

/-- Twice the bytes of the channel left to read, for each may be a no-op, and the output bytes that still have room
(42_packbits.md R198). -/
def State.channelWork (s : State) : Nat :=
  2 * (s.srcLen.toNat - s.rd.toNat) + (s.dstLen.toNat + 3 - s.wr.toNat) / 4

/-- At most so many micro-steps lie before the engine is idle (40_command_interface.md R138). -/
def State.stepsLeft (s : State) : Nat :=
  match s.fsm with
  | .idle => 0
  | .filling => s.dstLen.toNat - s.wr.toNat + 1
  | .raw => s.channelWork + 1
  | .awaitCtrl => s.channelWork + 1
  | .emitNoop => s.channelWork + 2
  | .lit => s.channelWork + 1
  | .repFetch => s.channelWork + 1
  | .repEmit => s.channelWork + 1

theorem stepsLeft_of_idle (hf : s.fsm = .idle) : s.stepsLeft = 0 := by
  simp [State.stepsLeft, hf]

theorem stepsLeft_of_filling (hf : s.fsm = .filling) : s.stepsLeft = s.dstLen.toNat - s.wr.toNat + 1 := by
  simp [State.stepsLeft, hf]

theorem stepsLeft_of_noop (hf : s.fsm = .emitNoop) : s.stepsLeft = s.channelWork + 2 := by
  simp [State.stepsLeft, hf]

theorem stepsLeft_of_channel (hidle : s.fsm ≠ .idle) (hfill : s.fsm ≠ .filling) (hnoop : s.fsm ≠ .emitNoop) :
    s.stepsLeft = s.channelWork + 1 := by
  cases hf : s.fsm with
  | idle | filling | emitNoop => contradiction
  | raw | awaitCtrl | lit | repFetch | repEmit => simp [State.stepsLeft, hf]

theorem stepsLeft_pos (hf : s.fsm ≠ .idle) : 0 < s.stepsLeft := by
  unfold State.stepsLeft
  split
  · contradiction
  all_goals exact Nat.succ_pos _

/-- The bound of R138 covers the micro-steps that are left in any state (40_command_interface.md R138). -/
theorem stepsLeft_le_commandBound (s : State) : s.stepsLeft ≤ commandBound s := by
  have hwork : s.channelWork ≤ 2 * s.srcLen.toNat + (s.dstLen.toNat + 3) / 4 := by
    unfold State.channelWork
    omega
  cases hf : s.fsm with
  | idle | filling => simp [State.stepsLeft, commandBound, hf]
  | raw | awaitCtrl | emitNoop | lit | repFetch | repEmit =>
    simp only [State.stepsLeft, commandBound, hf]
    omega

/-- A byte read is two units of work less. -/
theorem channelWork_consume (input : s.rd.toNat < s.srcLen.toNat) :
    (consume s).channelWork + 2 = s.channelWork := by
  simp only [State.channelWork, consume_srcLen, consume_rd, consume_dstLen, consume_wr, rd_add_one_toNat input]
  omega

/-- A byte stored is one unit of work less. -/
theorem channelWork_stored (b : Byte) (room : s.wr.toNat < s.dstLen.toNat)
    (inside : s.wr.toNat < s.config.dstCap.val) : (stored b 4 s).channelWork + 1 = s.channelWork := by
  have hwr : (s.wr + 4).toNat = s.wr.toNat + 4 := wr_add_toNat inside (by decide)
  simp only [State.channelWork, hwr]
  omega

/-- Counting a run down leaves at most its work and one step. -/
theorem stepsLeft_countDown (hc : isCounting s.fsm = true) : (countDown s).stepsLeft = s.channelWork + 1 := by
  have hne (f : Fsm) (hf : isCounting f = false) (ha : f ≠ .awaitCtrl) : (countDown s).fsm ≠ f := by
    rintro rfl
    obtain he | ⟨he, -⟩ := countDown_cases s
    · exact ha he
    · exact absurd hc (by rw [← he, hf]; exact Bool.false_ne_true)
  exact stepsLeft_of_channel (hne _ rfl nofun) (hne _ rfl nofun) (hne _ rfl nofun)

/-- A control byte opens a packet of at most two steps beside its work. -/
theorem stepsLeft_openPacket_le (c : Byte) :
    (openPacket (decodeControl c) s).stepsLeft ≤ (consume s).channelWork + 2 := by
  have hp := decodeControl_format c
  cases hc : decodeControl c with
  | pbNop => exact Nat.le_refl _
  | pbLit _ | pbRep _ => exact Nat.le_succ _
  | fill _ | unpackRaw _ | unpackPb _ | dispatch _ _ | rawByte _ => rw [hc] at hp; cases hp

/-- Every micro-step of a running command lowers the count of those left (42_packbits.md R198). -/
theorem moves_stepsLeft (h : Moves s t) (hf : s.fsm ≠ .idle) : t.stepsLeft < s.stepsLeft := by
  cases h with
  | idle h => contradiction
  | fillEnd _ _ | rawFull _ _ _ _ | rawEnd _ _ | streamEnd _ _ | litFull _ _ _ _ | litShort _ _ | fetchShort _ _
  | repFull _ _ => exact stepsLeft_pos hf
  | fillByte h room inside =>
    have hwr : (s.wr + 1).toNat = s.wr.toNat + 1 := wr_add_toNat inside (by decide)
    rw [stepsLeft_of_filling h, stepsLeft_of_filling (s := stored _ 1 s) h, hwr]
    exact Nat.succ_lt_succ (Nat.sub_succ_lt_self _ _ room)
  | rawByte h input _ room inside =>
    have hread := channelWork_consume input
    have hstore := channelWork_stored (s := consume s) (s.srcByte s.readAddr) room inside
    rw [stepsLeft_of_channel hf (by simp [h]) (by simp [h]),
      stepsLeft_of_channel (s := stored _ 4 (consume s)) hf (by simp [h]) (by simp [h])]
    omega
  | control h input _ =>
    have hread := channelWork_consume input
    have hopen := stepsLeft_openPacket_le (s := s) (s.srcByte s.readAddr)
    rw [stepsLeft_of_channel hf (by simp [h]) (by simp [h])]
    omega
  | noop h =>
    have hwork : (noopStep s).stepsLeft = s.channelWork + 1 := rfl
    rw [stepsLeft_of_noop h]
    omega
  | litByte h input _ room inside =>
    have hread := channelWork_consume input
    have hstore := channelWork_stored (s := consume s) (s.srcByte s.readAddr) room inside
    rw [stepsLeft_of_channel hf (by simp [h]) (by simp [h]), stepsLeft_countDown (by simp [h, isCounting])]
    omega
  | fetchValue h input _ =>
    have hread := channelWork_consume input
    have hwork : State.stepsLeft { consume s with repv := s.srcByte s.readAddr, fsm := .repEmit } =
      (consume s).channelWork + 1 := rfl
    rw [stepsLeft_of_channel hf (by simp [h]) (by simp [h])]
    omega
  | repByte h room inside =>
    have hstore := channelWork_stored s.repv room inside
    rw [stepsLeft_of_channel hf (by simp [h]) (by simp [h]), stepsLeft_countDown (by simp [h, isCounting])]
    omega

/-! ### Runs to the end -/

/-- Where the ranges fit, enough micro-steps end the command (40_command_interface.md R138). -/
theorem runEngine_ends {n : Nat} (h : s.Fits) (hn : s.stepsLeft ≤ n) :
    ∃ t, runEngine commandEnded n s = .next t ∧ t.fsm = .idle := by
  induction n generalizing s with
  | zero => exact ⟨s, rfl, by_contra fun hf => absurd (stepsLeft_pos hf) (Nat.not_lt.2 hn)⟩
  | succ n ih =>
    by_cases hf : s.fsm = .idle
    · exact ⟨s, runEngine_stop (by simp [hf, commandEnded]), hf⟩
    · obtain ⟨u, hm⟩ := exists_moves h
      obtain ⟨t, hrun, hidle⟩ := ih (fits_of_moves h hm) (by have := moves_stepsLeft hm hf; omega)
      exact ⟨t, (runEngine_succ (by simp [hf, commandEnded]) hm).trans hrun, hidle⟩

/-- A command that finds the engine idle leaves it idle, whether it is run, rejected or ignored (10_state.md R27). -/
theorem fsm_of_runCommand (hf : s.fsm = .idle) (h : runCommand i s = .next t) : t.fsm = .idle := by
  obtain ⟨-, rfl⟩ | ⟨-, hrun⟩ := runCommand_cases h
  · exact hf
  · obtain ⟨u, hu, hidle⟩ := runEngine_ends (fits_acceptCommand (commandWord i) hf) (stepsLeft_le_commandBound _)
    cases hu.symm.trans hrun
    exact hidle

/-! ### The command's start and end -/

/-- A command that starts has its ranges checked, whatever state the engine was in (40_command_interface.md R134). -/
theorem fits_startCommand (hi : i.format = .cmd32) (hr : s.rangesOk i = true) (w : Word) :
    (startCommand i (latchCommand w s)).Fits where
  buffer _ := rangesOk_buffer hr
  channel _ hf := rangesOk_channel hr (mt (modeOf_eq_none_iff (runsIn_startFsm hi)).1 hf)

/-- The bound of a command at its start (40_command_interface.md R138, 42_packbits.md R198). -/
theorem commandBound_startCommand (hi : i.format = .cmd32) (w : Word) (s : State) :
    commandBound (startCommand i (latchCommand w s)) = if modeOf i = none then s.dstLen.toNat + 1
      else 2 * s.srcLen.toNat + (s.dstLen.toNat + 3) / 4 + 2 := by
  cases i with
  | dispatch _ m => cases m <;> rfl
  | fill _ | unpackRaw _ | unpackPb _ => rfl
  | pbNop | pbLit _ | pbRep _ | rawByte _ => cases hi

/-- STATUS tells how a command that has started stands: it runs, or has ended in one way (10_state.md R31). -/
structure State.Reported (s : State) : Prop where
  running : s.fsm ≠ .idle → s.status = .running
  ended : s.fsm = .idle → s.status = .succeeded ∨ ∃ e, s.status = .failed e

theorem reported_startCommand (hi : i.format = .cmd32) (w : Word) (s : State) :
    (startCommand i (latchCommand w s)).Reported where
  running _ := rfl
  ended hf := absurd hf (startFsm_ne_idle hi)

theorem reported_of_moves (h : s.Reported) (hm : Moves s t) : t.Reported := by
  cases hm with
  | idle _ => exact h
  | fillEnd hf _ | rawEnd hf _ | streamEnd hf _ =>
    exact ⟨fun hn => absurd rfl hn, fun _ => .inl (congrArg Status.finished (h.running (by simp [hf])))⟩
  | rawFull _ _ _ _ | litFull _ _ _ _ | litShort _ _ | fetchShort _ _ | repFull _ _ =>
    exact ⟨fun hn => absurd rfl hn, fun _ => .inr ⟨_, rfl⟩⟩
  | fillByte hf _ _ | rawByte hf _ _ _ _ =>
    exact ⟨h.running, fun hidle => absurd (hf.symm.trans hidle) (by simp)⟩
  | noop hf | fetchValue hf _ _ => exact ⟨fun _ => h.running (by simp [hf]), nofun⟩
  | litByte hf _ _ _ _ | repByte hf _ _ =>
    refine ⟨fun _ => h.running (by simp [hf]), fun hidle => ?_⟩
    rw [countDown_fsm] at hidle
    split at hidle
    · cases hidle
    · exact absurd (hf.symm.trans hidle) (by simp)
  | control hf _ _ =>
    cases decodeControl (s.srcByte s.readAddr) with
    | pbNop | pbLit _ | pbRep _ => exact ⟨fun _ => h.running (by simp [hf]), nofun⟩
    | fill _ | unpackRaw _ | unpackPb _ | dispatch _ _ | rawByte _ => exact h

/-- A command that has ended shows BUSY = 0 and exactly one of DONE and ERR (10_state.md R31). -/
theorem State.Reported.flags (h : s.Reported) (hf : s.fsm = .idle) :
    s.status.busy = false ∧ s.status.done = !s.status.err := by
  obtain hs | ⟨e, hs⟩ := h.ended hf
  · rw [hs]; exact ⟨rfl, rfl⟩
  · rw [hs]; exact ⟨rfl, rfl⟩

/-- Settles O38: every micro-step lowers the count of those left, which starts within the bound. -/
theorem commandsEndWithinTheirBound : Obligations.CommandsEndWithinTheirBound := by
  intro s w i _ hd hr
  obtain ⟨hi, rfl⟩ := decodeCommand_eq_ok.1 hd
  rw [acceptCommand_of_rangesOk hi hr, ← commandBound_startCommand hi (commandWord i) s]
  obtain ⟨t, hrun, hidle⟩ := runEngine_ends (fits_startCommand hi hr _) (stepsLeft_le_commandBound _)
  have hreported := runEngine_keeps (fun _ _ => reported_of_moves) (reported_startCommand hi _ s) hrun
  exact ⟨t, hrun, hidle, hreported.flags hidle⟩

end Sys2Proof.Machine
end


/-! SUPPORT. FILL's run from its start to its end, and the micro-steps of FILL and of the Raw Unpacker. -/
section
namespace Sys2Proof.Machine

variable {s t u : State} {v : Byte}

/-- Settles O33: each clause is one of the engine's moves, whose access the ranges keep inside the RAM. -/
theorem fillAndRawMicroSteps : Obligations.FillAndRawMicroSteps := by
  refine ⟨fun s hf hbuffer => ⟨fun hend => ?_, fun room => ?_⟩,
    fun s hf hbuffer hchannel => ⟨fun hend => ?_, fun input full => ?_, fun input room => ?_⟩⟩
  · exact moves_iff.1 (.fillEnd hf (by simp [hend]))
  · exact moves_iff.1 (.fillByte hf room (room.trans_le hbuffer))
  · exact moves_iff.1 (.rawEnd hf (by simp [hend]))
  · exact moves_iff.1 (.rawFull hf input (readAddr_lt hchannel input) (Nat.not_lt.2 full))
  · exact moves_iff.1 (.rawByte hf input (readAddr_lt hchannel input) room (room.trans_le hbuffer))

/-! ### FILL from its start to its end -/

theorem fillvField_fillWord (v : Byte) : fillvField (fillWord v) = v := by
  revert v; decide

/-- FILL #v under way that has begun in s: DST holds v below WR and is as it was from there on, and the command ends
with success at DST_LEN (40_command_interface.md R145, R146). -/
structure FillRun (v : Byte) (s u : State) : Prop where
  cmd : u.cmd = fillWord v
  engine : (u.fsm = .filling ∧ u.status = .running) ∨ (u.fsm = .idle ∧ u.status = .succeeded ∧ u.wr = s.dstLen)
  rd : u.rd = 0
  wr : u.wr.toNat ≤ s.dstLen.toNat
  dstLen : u.dstLen = s.dstLen
  bytes : ∀ a, u.dstByte a = if a < u.wr.toNat then v else s.dstByte a

theorem fillRun_start (v : Byte) (s : State) : FillRun v s (startCommand (.fill v) (latchCommand (fillWord v) s)) where
  cmd := rfl
  engine := .inl ⟨rfl, rfl⟩
  rd := rfl
  wr := Nat.zero_le _
  dstLen := rfl
  bytes _ := rfl

/-- FILL's byte at WR: v now stands at one more address (40_command_interface.md R146). -/
theorem fillRun_stored (h : FillRun v s u) (hf : u.fsm = .filling) (room : u.wr.toNat < u.dstLen.toNat)
    (inside : u.wr.toNat < u.config.dstCap.val) : FillRun v s (stored (fillvField u.cmd) 1 u) := by
  have hwr : (u.wr + 1).toNat = u.wr.toNat + 1 := wr_add_toNat inside (by decide)
  have hrun : u.status = .running := by
    obtain ⟨-, hs⟩ | ⟨hidle, -⟩ := h.engine
    · exact hs
    · cases hf.symm.trans hidle
  refine ⟨h.cmd, .inl ⟨hf, hrun⟩, h.rd, ?_, h.dstLen, fun a => ?_⟩
  · rw [hwr, ← h.dstLen]
    exact room
  · have hbyte : (stored (fillvField u.cmd) 1 u).dstByte a = if u.wr.toNat = a then v else u.dstByte a := by
      rw [h.cmd, fillvField_fillWord, State.dstByte, Memory.get?_write]
      split <;> rfl
    rw [hbyte, h.bytes, hwr]
    by_cases ha : u.wr.toNat = a
    · rw [if_pos ha, if_pos (by omega)]
    · have hiff : a < u.wr.toNat + 1 ↔ a < u.wr.toNat := by omega
      simp only [if_neg ha, hiff]

theorem fillRun_of_moves (h : FillRun v s u) (hm : Moves u t) : FillRun v s t := by
  obtain ⟨hf, hs⟩ | ⟨hf, -⟩ := h.engine
  · cases hm with
    | fillByte _ room inside => exact fillRun_stored h hf room inside
    | fillEnd _ full =>
      have hwr : u.wr = s.dstLen := BitVec.eq_of_toNat_eq (Nat.le_antisymm h.wr (h.dstLen ▸ Nat.not_lt.1 full))
      exact ⟨h.cmd, .inr ⟨rfl, congrArg Status.finished hs, hwr⟩, h.rd, h.wr, h.dstLen, h.bytes⟩
    | idle h' | rawByte h' _ _ _ _ | rawFull h' _ _ _ | rawEnd h' _ | control h' _ _ | streamEnd h' _ | noop h'
    | litByte h' _ _ _ _ | litFull h' _ _ _ | litShort h' _ | fetchValue h' _ _ | fetchShort h' _
    | repByte h' _ _ | repFull h' _ => cases hf.symm.trans h'
  · cases (moves_iff.1 hm).symm.trans (moves_iff.1 (.idle hf))
    exact h

/-- FILL with a buffer that fits DST runs to its end (40_command_interface.md R145). -/
theorem exists_fillRun (hb : s.status.busy = false) (hbuffer : s.dstLen.toNat ≤ s.config.dstCap.val) (v : Byte) :
    ∃ t, runCommand (.fill v) s = .next t ∧ FillRun v s t ∧ t.fsm = .idle := by
  have hr : s.rangesOk (.fill v) = true := (bufferFits_iff s).2 hbuffer
  rw [runCommand_of_not_busy _ hb, acceptCommand_of_rangesOk rfl hr]
  obtain ⟨t, hrun, hidle⟩ := runEngine_ends (fits_startCommand rfl hr _) (stepsLeft_le_commandBound _)
  exact ⟨t, hrun, runEngine_keeps (fun _ _ => fillRun_of_moves) (fillRun_start v s) hrun, hidle⟩

/-! ### Words with OP = 1 -/

/-- Why a word that is no command's is illegal (30_encoding.md R93). -/
theorem decodeCommand_eq_error {w : Word} {e : Reject} (h : decodeCommand w = .error e) :
    e = if opField w = 0 ∨ 5 ≤ (opField w).toNat then .reservedOp else .fieldNotZero := by
  unfold decodeCommand at h
  split_ifs at h with _ _ _ _ hop <;> cases h
  · rw [if_pos hop]
  · rw [if_neg hop]

/-- FILL's word has no field but OP and FILLV (30_encoding.md R91). -/
theorem fillWord_unused_fields (v : Byte) :
    (fillWord v).extractLsb' 4 4 = 0 ∧ (fillWord v).extractLsb' 16 16 = 0 := by
  revert v; decide

/-- Settles O30: the run to its end by `FillRun`, the rejection as of any command, the illegal words by their fields. -/
theorem fillWritesTheWholeBuffer : Obligations.FillWritesTheWholeBuffer := by
  refine ⟨fun v s hb => ⟨fun hbuffer => ?_, fun hf hlong => ?_⟩, fun w hop hfields => ?_⟩
  · obtain ⟨t, hrun, hfill, hidle⟩ := exists_fillRun hb hbuffer v
    obtain ⟨hf, -⟩ | ⟨-, hstatus, hwr⟩ := hfill.engine
    · cases hf.symm.trans hidle
    have hr : s.rangesOk (.fill v) = true := (bufferFits_iff s).2 hbuffer
    have hframe := commandRun_of_rangesOk rfl hb hr hrun
    obtain ⟨hctrl, hcnt, hrepv⟩ := hframe.hidden nofun
    exact ⟨t, hrun, hwr ▸ hfill.bytes, hfill.cmd, hstatus, hfill.rd, hwr, hidle, hctrl, hcnt, hrepv,
      runCommand_surroundings hrun⟩
  · exact (commandsTurnedAway s (.fill v) rfl).2 hb hf (.inl hlong)
  · cases hd : decodeCommand w with
    | ok i =>
      obtain ⟨hi, rfl⟩ := decodeCommand_eq_ok.1 hd
      have hmode := (opField_commandWord_eq_one hi).1 hop
      cases i with
      | fill v =>
        obtain ⟨hlow, hhigh⟩ := fillWord_unused_fields v
        exact absurd hfields (not_or.2 ⟨not_not.2 hlow, not_not.2 hhigh⟩)
      | unpackRaw _ | unpackPb _ | dispatch _ _ => cases hmode
      | pbNop | pbLit _ | pbRep _ | rawByte _ => cases hi
    | error e =>
      rw [decodeCommand_eq_error hd, hop]
      rfl

end Sys2Proof.Machine
end


/-! SUPPORT. What starts the engine: an idle engine stays idle in every turn but a CMD write. -/
section
namespace Sys2Proof.Machine

variable {s t : State}

/-! ### An idle engine -/

theorem microStep_of_idle (hf : s.fsm = .idle) : microStep s = .next s := moves_iff.1 (.idle hf)

theorem engineTurn_of_idle (hf : s.fsm = .idle) : engineTurn s = .next s := by
  simp only [engineTurn, hf, microStep_of_idle hf]

/-! ### The host's operations -/

theorem fsm_of_storeRam (ram : Ram) (a : Nat) (bs : List Byte) (s : State) : (storeRam ram a bs s).fsm = s.fsm := by
  cases ram <;> rfl

/-- A read at a place leaves the engine. -/
theorem fsm_of_hostRead {p : Place} {w : Nat} (h : hostRead w p s = .next t) : t.fsm = s.fsm := by
  cases p with
  | reg o => obtain ⟨-, r, -, rfl⟩ := hostReadReg_eq_next.1 h; rfl
  | ram ram a => obtain ⟨-, -, n, v, rfl⟩ := hostReadRam_next h; rfl

theorem fsm_of_hostWriteRam {ram : Ram} {a w : Nat} {v : Word} (h : hostWriteRam ram a w v s = .next t) :
    t.fsm = s.fsm := by
  obtain ⟨-, -, -, rfl⟩ := hostWriteRam_eq_next.1 h
  exact fsm_of_storeRam _ _ _ _

theorem fsm_of_hostStopOnErr (s : State) : (hostStopOnErr s).fsm = s.fsm := by
  unfold hostStopOnErr
  split <;> rfl

theorem fsm_of_hostReturnOk {n : Nat} (h : hostReturnOk n s = .next t) : t.fsm = s.fsm := by
  unfold hostReturnOk at h
  split_ifs at h <;> cases h <;> rfl

/-- A CMD write that is run whole finds the engine idle and leaves it idle (log 6). -/
theorem fsm_of_hostCommand {w : Word} (hf : s.fsm = .idle) (h : hostCommand w s = .next t) : t.fsm = .idle := by
  obtain ⟨-, he⟩ | ⟨-, i, hd, he⟩ | ⟨-, hillegal, he⟩ := hostCommand_cases w s
  · cases he.symm.trans h
    exact hf
  · rw [he, exec_command (decodeCommand_format hd)] at h
    exact fsm_of_runCommand hf h
  · cases he.symm.trans h
    obtain ⟨i, hd, -⟩ | ⟨-, hreject⟩ := acceptCommand_cases w s
    · exact absurd hd (hillegal i)
    · rw [hreject]; exact hf

/-! ### The write that starts a command -/

/-- Of the registers only CMD starts the engine, and only by a legal word (40_command_interface.md R135, R139). -/
theorem writeRegister_starts {r : Reg} {v : Word} (hf : s.fsm = .idle) (hn : (writeRegister r v s).fsm ≠ .idle) :
    r = .cmd ∧ ∃ i, decodeCommand v = .ok i := by
  cases r with
  | cmd =>
    obtain ⟨i, hd, -⟩ | ⟨-, hreject⟩ := acceptCommand_cases v s
    · exact ⟨rfl, i, hd⟩
    · simp only [writeRegister, hreject] at hn
      split at hn <;> exact absurd hf hn
  | srcOff | srcLen | dstLen =>
    simp only [writeRegister] at hn
    split at hn <;> exact absurd hf hn
  | status | rdCur | wrCur | reserved => exact absurd hf hn

/-- CMD's offset is 0, and its access is 32 bits wide (10_state.md R29). -/
theorem offset_of_cmd {o w : Nat} (hok : regAccessOk o w = true) (hr : regAt o = some .cmd) : o = 0x00 ∧ w = 4 := by
  simp only [regAccessOk, Bool.and_eq_true, beq_iff_eq] at hok
  unfold regAt at hr
  split at hr <;> cases hr
  exact ⟨rfl, hok.1⟩

theorem hostWriteReg_starts {o w : Nat} {v : Word} (hf : s.fsm = .idle) (h : hostWriteReg o w v s = .next t)
    (hn : t.fsm ≠ .idle) : o = 0x00 ∧ w = 4 ∧ ∃ i, decodeCommand v = .ok i := by
  obtain ⟨hok, r, hr, rfl⟩ := hostWriteReg_eq_next.1 h
  obtain ⟨rfl, hd⟩ := writeRegister_starts hf hn
  obtain ⟨ho, hw⟩ := offset_of_cmd hok hr
  exact ⟨ho, hw, hd⟩

/-- A write through the host's map that starts the engine is CMD's, at REG_BASE (20_memory.md R67). -/
theorem writeAt_starts {a w : Nat} {v : Word} (hf : s.fsm = .idle) (h : atPlace a (hostWrite w v) s = .next t)
    (hn : t.fsm ≠ .idle) : a = s.config.regBase ∧ w = 4 ∧ ∃ i, decodeCommand v = .ok i := by
  obtain ⟨p, hp, hwrite⟩ := atPlace_eq_next.1 h
  obtain ⟨rfl, hle, -⟩ | ⟨rfl, -⟩ | ⟨rfl, -⟩ := mem_placesAt (hp ▸ List.mem_singleton_self p)
  · obtain ⟨ho, hw, hd⟩ := hostWriteReg_starts hf hwrite hn
    exact ⟨by omega, hw, hd⟩
  · exact absurd ((fsm_of_hostWriteRam hwrite).trans hf) hn
  · exact absurd ((fsm_of_hostWriteRam hwrite).trans hf) hn

/-- The one turn that starts an idle engine is a write of a legal word to CMD (40_command_interface.md R139). -/
theorem takeTurn_starts {turn : Turn} {rest : List Turn} (h : s.Inv) (hf : s.fsm = .idle)
    (ht : takeTurn turn rest s = .next t) (hn : t.fsm ≠ .idle) :
    ∃ w i, (turn = .writeReg 0x00 4 w ∨ turn = .writeAt s.config.regBase 4 w) ∧ decodeCommand w = .ok i := by
  have hf' : State.fsm { s with agenda := rest } = .idle := hf
  cases turn with
  | writeReg o w v =>
    obtain ⟨rfl, rfl, i, hd⟩ := hostWriteReg_starts hf' ht hn
    exact ⟨v, i, .inl rfl, hd⟩
  | writeAt a w v =>
    obtain ⟨rfl, rfl, i, hd⟩ := writeAt_starts hf' ht hn
    exact ⟨v, i, .inr rfl, hd⟩
  | readReg o w => exact absurd ((fsm_of_hostRead (p := .reg o) ht).trans hf) hn
  | readRam ram a w => exact absurd ((fsm_of_hostRead (p := .ram ram a) ht).trans hf) hn
  | writeRam ram a w v => exact absurd ((fsm_of_hostWriteRam ht).trans hf) hn
  | readAt a w =>
    obtain ⟨p, -, hread⟩ := atPlace_eq_next.1 ht
    exact absurd ((fsm_of_hostRead hread).trans hf) hn
  | command w => exact absurd (fsm_of_hostCommand hf' ht) hn
  | wait =>
    have hb : s.status.busy = false := Bool.eq_false_iff.2 (mt h.busyIff.1 (not_not.2 hf))
    simp only [takeTurn, hb] at ht
    cases ht
    exact absurd hf hn
  | engine =>
    cases (microStep_of_idle hf').symm.trans ht
    exact absurd hf hn
  | reset => cases ht; exact absurd rfl hn
  | call c => cases ht; exact absurd hf hn
  | stopOnErr => cases ht; exact absurd ((fsm_of_hostStopOnErr _).trans hf') hn
  | returnOk n => exact absurd ((fsm_of_hostReturnOk ht).trans hf) hn

/-- Settles O13: the engine's own turns leave an idle engine, and of the host's only a CMD write starts it. -/
theorem onlyCmdWritesStartTheEngine : Obligations.OnlyCmdWritesStartTheEngine := by
  refine ⟨fun s hf => ⟨fun hs => ?_, fun rest hs => ?_⟩, fun s t h hf hstep hn => ?_⟩
  · exact (step_of_empty hs).trans (engineTurn_of_idle hf)
  · exact (step_of_turn hs).trans (microStep_of_idle (s := { s with agenda := rest }) hf)
  · cases hs : s.agenda with
    | nil =>
      cases (engineTurn_of_idle hf).symm.trans ((step_of_empty hs).symm.trans hstep)
      exact absurd hf hn
    | cons turn rest =>
      obtain ⟨w, i, hturn, hd⟩ := takeTurn_starts h hf ((step_of_turn hs).symm.trans hstep) hn
      exact ⟨w, i, rest, hturn.imp (congrArg (· :: rest)) (congrArg (· :: rest)), hd⟩

end Sys2Proof.Machine
end


/-! SUPPORT. A channel's output as a list: how it begins, byte by byte and packet by packet, and the end it gives a
command from any write position. -/
section
namespace Sys2Proof.Machine

/-! ### What an output begins with -/

@[simp] theorem Output.cons_writes (b : Byte) (k : Nat) (o : Output) : (o.cons b k).writes = (b, k) :: o.writes := rfl

@[simp] theorem Output.cons_truncated (b : Byte) (k : Nat) (o : Output) : (o.cons b k).truncated = o.truncated := rfl

/-- An output with a run of one byte at its front. -/
def Output.repeated (v : Byte) (consumed : Nat) (o : Output) : Nat → Output
  | 0 => o
  | n + 1 => (o.repeated v consumed n).cons v consumed

/-- The output of a PackBits channel whose next byte is the value of a run of n bytes (42_packbits.md R189). -/
def repeatOutput (n k : Nat) : List Byte → Output
  | [] => ⟨[], true⟩
  | v :: bs => (packBitsOutput 0 (k + 1) bs).repeated v (k + 1) n

theorem Output.repeated_eq (v : Byte) (k : Nat) (o : Output) (n : Nat) :
    o.repeated v k n = { o with writes := List.replicate n (v, k) ++ o.writes } := by
  induction n with
  | zero => rfl
  | succ n ih => rw [Output.repeated, ih]; rfl

/-! A PackBits channel's output by the class of its control byte (30_encoding.md R94). -/

theorem packBitsOutput_nop (k : Nat) (bs : List Byte) :
    packBitsOutput 0 k (0x80 :: bs) = packBitsOutput 0 (k + 1) bs := by
  cases bs <;> simp [packBitsOutput]

theorem packBitsOutput_literal {c : Byte} (hc : c.toNat < 0x80) (k : Nat) (bs : List Byte) :
    packBitsOutput 0 k (c :: bs) = packBitsOutput (c.toNat + 1) (k + 1) bs := by
  have hne : c ≠ 128#8 := by rintro rfl; exact absurd hc (by decide)
  cases bs <;> simp [packBitsOutput, hne, hc]

theorem packBitsOutput_repeat {c : Byte} (hc : 0x81 ≤ c.toNat) (k : Nat) (bs : List Byte) :
    packBitsOutput 0 k (c :: bs) = repeatOutput (repeatCount c) (k + 1) bs := by
  have hne : c ≠ 128#8 := by rintro rfl; exact absurd hc (by decide)
  have hlit : ¬ c.toNat < 0x80 := by omega
  cases bs with
  | nil => simp [packBitsOutput, repeatOutput, hne]
  | cons v bs => simp [packBitsOutput, repeatOutput, Output.repeated_eq, repeatCount, hne, hlit]

/-! ### The end that an output gives -/

/-- What of a command's end the list of output bytes determines: DST's bytes, STATUS, RD and WR. -/
structure ChannelEnd where
  bytes : Nat → Byte
  status : Status
  rd : Nat
  wr : Nat

/-- The end of a channel of a given length whose output is written from wr on, below length (60_exceptions.md R266). -/
def Output.endFrom (o : Output) (wr length channelLength : Nat) (before : Nat → Byte) : ChannelEnd where
  bytes := afterWrites o wr (writtenCount o wr length) before
  status := channelStatus o wr length
  rd := channelRd o wr length channelLength
  wr := wr + 4 * writtenCount o wr length

variable {o : Output} {b : Byte} {k wr length channelLength : Nat} {before : Nat → Byte}

theorem roomFor_of_full (full : length ≤ wr) : roomFor wr length = 0 := by
  unfold roomFor
  omega

theorem roomFor_of_room (room : wr < length) : roomFor wr length = roomFor (wr + 4) length + 1 := by
  unfold roomFor
  omega

theorem afterWrites_zero (o : Output) (wr : Nat) (before : Nat → Byte) : afterWrites o wr 0 before = before := by
  funext a
  simp [afterWrites]

/-- One more output byte stands at wr, the others one stride further (41_raw_unpacker.md R164). -/
theorem afterWrites_cons (n : Nat) : afterWrites (o.cons b k) wr (n + 1) before =
    afterWrites o (wr + 4) n (fun a => if wr = a then b else before a) := by
  funext a
  unfold afterWrites
  by_cases ha : wr = a
  · subst ha
    simp
  · by_cases hlater : wr + 4 ≤ a ∧ (a - wr) % 4 = 0
    · have hdiv : (a - wr) / 4 = (a - (wr + 4)) / 4 + 1 := by omega
      have hmod : (a - (wr + 4)) % 4 = 0 := by omega
      simp [hdiv, hmod, hlater, ha, show wr ≤ a by omega]
    · rw [if_neg (by omega), if_neg (by omega)]
      exact (if_neg ha).symm

/-- An output byte that has room is written, and the end is that of the bytes after it (41_raw_unpacker.md R161). -/
theorem Output.endFrom_cons (room : wr < length) : (o.cons b k).endFrom wr length channelLength before =
    o.endFrom (wr + 4) length channelLength (fun a => if wr = a then b else before a) := by
  have hroom := roomFor_of_room room
  have hcount : writtenCount (o.cons b k) wr length = writtenCount o (wr + 4) length + 1 := by
    simp [writtenCount, hroom, Output.cons, Nat.add_min_add_right]
  have hfull : roomFor wr length < (o.cons b k).writes.length ↔ roomFor (wr + 4) length < o.writes.length := by
    simp [hroom]
  have hstatus : channelStatus (o.cons b k) wr length = channelStatus o (wr + 4) length :=
    if_congr hfull rfl rfl
  have hrd : channelRd (o.cons b k) wr length channelLength = channelRd o (wr + 4) length channelLength := by
    simp [channelRd, hroom]
  simp only [Output.endFrom, hcount, hstatus, hrd, afterWrites_cons, ChannelEnd.mk.injEq, true_and]
  omega

/-- An output byte that has no room ends the command just past the byte it came from (60_exceptions.md R266). -/
theorem Output.endFrom_full (full : length ≤ wr) : (o.cons b k).endFrom wr length channelLength before =
    ⟨before, .failed .bufferTooSmall, k, wr⟩ := by
  simp [Output.endFrom, writtenCount, channelStatus, channelRd, roomFor_of_full full, afterWrites_zero]

/-- With no output byte left the end is the stream's (42_packbits.md R195). -/
theorem Output.endFrom_nil (truncated : Bool) :
    Output.endFrom ⟨[], truncated⟩ wr length channelLength before =
      ⟨before, if truncated then .failed .truncatedInput else .succeeded, channelLength, wr⟩ := by
  simp [Output.endFrom, writtenCount, channelStatus, channelRd, afterWrites_zero, Status.succeeded]

end Sys2Proof.Machine
end


/-! SUPPORT. What a channel command has still to write, in any state of its run, and what each micro-step does of it. -/
section
namespace Sys2Proof.Machine

variable {s t : State}

/-! ### The bytes of the channel that are left -/

/-- S(RD) to S(SRC_LEN - 1): the bytes of the channel that are still to be read (00_scope.md R10). -/
def State.bytesLeft (s : State) : List Byte := s.ramBytes .src s.readAddr (s.srcLen.toNat - s.rd.toNat)

theorem srcByte_congr (h : s.sameSurroundings t) (a : Nat) : t.srcByte a = s.srcByte a := by
  obtain ⟨-, -, -, -, hsrc, hepoch, -⟩ := h
  simp only [State.srcByte, hsrc, hepoch]

theorem bytesLeft_congr (h : s.sameSurroundings t) (hrd : t.rd = s.rd) : t.bytesLeft = s.bytesLeft := by
  have hbyte := srcByte_congr h
  obtain ⟨-, hoff, hlen, -⟩ := h
  refine List.ext_getElem? fun j => ?_
  simp only [State.bytesLeft, State.readAddr, ramBytes_getElem?, State.ramByte, hbyte, hoff, hlen, hrd]

theorem bytesLeft_nil (out : ¬ s.rd.toNat < s.srcLen.toNat) : s.bytesLeft = [] := by
  rw [State.bytesLeft, Nat.sub_eq_zero_of_le (Nat.not_lt.1 out)]
  rfl

/-- The next byte to be read is S(RD), and reading it leaves the ones after it (10_state.md R22). -/
theorem bytesLeft_cons (h : s.sameSurroundings t) (hrd : t.rd = s.rd + 1) (input : s.rd.toNat < s.srcLen.toNat) :
    s.bytesLeft = s.srcByte s.readAddr :: t.bytesLeft := by
  have hnat : t.rd.toNat = s.rd.toNat + 1 := hrd ▸ rd_add_one_toNat input
  have hcount : s.srcLen.toNat - s.rd.toNat = s.srcLen.toNat - (s.rd.toNat + 1) + 1 := by omega
  have hbyte := srcByte_congr h
  obtain ⟨-, hoff, hlen, -⟩ := h
  rw [State.bytesLeft, hcount, State.ramBytes]
  refine congrArg _ (List.ext_getElem? fun j => ?_)
  simp only [State.bytesLeft, State.readAddr, ramBytes_getElem?, State.ramByte, hbyte, ← hoff, ← hlen, hnat,
    Nat.add_assoc]

/-! ### The output that is left -/

/-- The output bytes that a channel command has still to write, each with the number of stream bytes consumed by then
(30_encoding.md R94 to R101, 42_packbits.md R196). -/
def State.outputLeft (s : State) : Output :=
  match s.fsm with
  | .idle => ⟨[], false⟩
  | .filling => ⟨[], false⟩
  | .raw => rawOutput s.rd.toNat s.bytesLeft
  | .awaitCtrl => packBitsOutput 0 s.rd.toNat s.bytesLeft
  | .emitNoop => packBitsOutput 0 s.rd.toNat s.bytesLeft
  | .lit => packBitsOutput s.cnt.toNat s.rd.toNat s.bytesLeft
  | .repFetch => repeatOutput s.cnt.toNat s.rd.toNat s.bytesLeft
  | .repEmit => (packBitsOutput 0 s.rd.toNat s.bytesLeft).repeated s.repv s.rd.toNat s.cnt.toNat

theorem outputLeft_raw (hf : s.fsm = .raw) : s.outputLeft = rawOutput s.rd.toNat s.bytesLeft := by
  simp [State.outputLeft, hf]

theorem outputLeft_boundary (hf : s.fsm = .awaitCtrl ∨ s.fsm = .emitNoop) :
    s.outputLeft = packBitsOutput 0 s.rd.toNat s.bytesLeft := by
  obtain hf | hf := hf <;> simp [State.outputLeft, hf]

theorem outputLeft_lit (hf : s.fsm = .lit) : s.outputLeft = packBitsOutput s.cnt.toNat s.rd.toNat s.bytesLeft := by
  simp [State.outputLeft, hf]

theorem outputLeft_repFetch (hf : s.fsm = .repFetch) :
    s.outputLeft = repeatOutput s.cnt.toNat s.rd.toNat s.bytesLeft := by
  simp [State.outputLeft, hf]

theorem outputLeft_repEmit (hf : s.fsm = .repEmit) :
    s.outputLeft = (packBitsOutput 0 s.rd.toNat s.bytesLeft).repeated s.repv s.rd.toNat s.cnt.toNat := by
  simp [State.outputLeft, hf]

/-- What the micro-steps of a channel command rest on: RD has not passed the channel's end, and a run under way has a
byte to come (10_state.md R22, R25). -/
structure State.ReadsChannel (s : State) : Prop where
  notFilling : s.fsm ≠ .filling
  readCursor : s.rd.toNat ≤ s.srcLen.toNat
  counter : isCounting s.fsm = true → 1 ≤ s.cnt.toNat

theorem readCursor_of_moves (h : s.rd.toNat ≤ s.srcLen.toNat) (hm : Moves s t) : t.rd.toNat ≤ t.srcLen.toNat := by
  obtain ⟨-, -, hlen, -⟩ := moves_surroundings hm
  rw [← hlen]
  obtain hrd | ⟨hrd, input⟩ := moves_rd hm
  · exact hrd ▸ h
  · rw [hrd, rd_add_one_toNat input]
    exact input

theorem isPackBits_countDown (hp : isPackBits s.fsm = true) : isPackBits (countDown s).fsm = true := by
  obtain he | ⟨he, -⟩ := countDown_cases s
  · rw [he]; rfl
  · rw [he]; exact hp

theorem counter_countDown (hc : isCounting (countDown s).fsm = true) : 1 ≤ (countDown s).cnt.toNat := by
  obtain he | ⟨-, hone⟩ := countDown_cases s
  · rw [he] at hc; cases hc
  · exact hone

theorem isPackBits_openPacket (c : Byte) (s : State) : isPackBits (openPacket (decodeControl c) s).fsm = true := by
  have hp := decodeControl_format c
  cases hc : decodeControl c with
  | pbNop | pbLit _ | pbRep _ => rfl
  | fill _ | unpackRaw _ | unpackPb _ | dispatch _ _ | rawByte _ => rw [hc] at hp; cases hp

/-- A control byte's run has at least one byte (30_encoding.md R95, R96). -/
theorem counter_openPacket (c : Byte) (hs : isCounting s.fsm = false)
    (hc : isCounting (openPacket (decodeControl c) s).fsm = true) :
    1 ≤ (openPacket (decodeControl c) s).cnt.toNat := by
  have hw := decodeControl_wellFormed c
  cases hd : decodeControl c with
  | pbNop => rw [hd] at hc; cases hc
  | pbLit n => exact (Nat.le_add_left 1 _).trans (literalCount_toNat n).ge
  | pbRep r =>
    rw [hd] at hw
    have hone : 1 ≤ repeatCount r := by rw [repeatCount]; omega
    exact hone.trans (repeatCount_toNat (of_decide_eq_true hw)).ge
  | fill _ | unpackRaw _ | unpackPb _ | dispatch _ _ | rawByte _ =>
    rw [hd] at hc
    exact absurd hc (Bool.eq_false_iff.1 hs)

theorem readsChannel_of_moves (h : s.ReadsChannel) (hm : Moves s t) : t.ReadsChannel := by
  have hrd := readCursor_of_moves h.readCursor hm
  cases hm with
  | idle _ => exact h
  | fillByte hf _ _ | fillEnd hf _ => exact absurd hf h.notFilling
  | rawByte _ _ _ _ _ => exact ⟨h.notFilling, hrd, h.counter⟩
  | rawFull _ _ _ _ | rawEnd _ _ | streamEnd _ _ | noop _ | litFull _ _ _ _ | litShort _ _ | fetchShort _ _
  | repFull _ _ => exact ⟨nofun, hrd, nofun⟩
  | fetchValue hf _ _ => exact ⟨nofun, hrd, fun _ => h.counter (by simp [hf, isCounting])⟩
  | litByte hf _ _ _ _ | repByte hf _ _ =>
    exact ⟨ne_filling_of_isPackBits (isPackBits_countDown (by simp [hf, isPackBits])), hrd, counter_countDown⟩
  | control hf _ _ =>
    exact ⟨ne_filling_of_isPackBits (isPackBits_openPacket _ s), hrd,
      counter_openPacket _ (by simp [hf, isCounting])⟩

/-! ### What a micro-step does of the output that is left -/

/-- A control byte that is consumed opens the packet that the output begins with (42_packbits.md R183). -/
theorem outputLeft_openPacket (hf : s.fsm = .awaitCtrl) (input : s.rd.toNat < s.srcLen.toNat)
    (hsame : s.sameSurroundings (openPacket (decodeControl (s.srcByte s.readAddr)) s)) :
    s.outputLeft = (openPacket (decodeControl (s.srcByte s.readAddr)) s).outputLeft := by
  have hrd := rd_add_one_toNat input
  rw [outputLeft_boundary (.inl hf)]
  obtain hlit | hnop | hrep := controlByte_cases (s.srcByte s.readAddr)
  · rw [decodeControl_literal hlit] at hsame ⊢
    have hcount : literalCount ((s.srcByte s.readAddr).setWidth 7) = (s.srcByte s.readAddr).toNat + 1 := by
      rw [literalCount, BitVec.toNat_setWidth, Nat.mod_eq_of_lt hlit]
    have hcnt := literalCount_toNat ((s.srcByte s.readAddr).setWidth 7)
    rw [bytesLeft_cons hsame rfl input, packBitsOutput_literal hlit, ← hrd, ← hcount, ← hcnt]
    rfl
  · rw [hnop] at hsame ⊢
    rw [bytesLeft_cons hsame rfl input, hnop, packBitsOutput_nop, ← hrd]
    rfl
  · rw [decodeControl_repeat hrep] at hsame ⊢
    rw [bytesLeft_cons hsame rfl input, packBitsOutput_repeat hrep, ← hrd, ← repeatCount_toNat hrep]
    rfl

/-- A run that is counted down is one byte shorter, and over where that makes 0 (42_packbits.md R196). -/
theorem countDown_of_one_le (hc : 1 ≤ s.cnt.toNat) : (countDown s).cnt.toNat = s.cnt.toNat - 1 ∧
    ((countDown s).fsm = s.fsm ∨ ((countDown s).fsm = .awaitCtrl ∧ s.cnt.toNat - 1 = 0)) := by
  have hcnt := cnt_sub_one_toNat hc
  refine ⟨hcnt, ?_⟩
  rw [countDown_fsm]
  split
  · next hz => exact .inr ⟨rfl, hcnt ▸ congrArg BitVec.toNat hz⟩
  · exact .inl rfl

/-- A literal byte that is counted down leaves the rest of its run (42_packbits.md R187). -/
theorem outputLeft_countDown_lit (hf : s.fsm = .lit) (hc : 1 ≤ s.cnt.toNat) :
    (countDown s).outputLeft = packBitsOutput (s.cnt.toNat - 1) s.rd.toNat (countDown s).bytesLeft := by
  obtain ⟨hcnt, hstay | ⟨hend, hz⟩⟩ := countDown_of_one_le hc
  · rw [outputLeft_lit (hstay.trans hf), hcnt]
    rfl
  · rw [outputLeft_boundary (.inl hend), hz]
    rfl

/-- A repeated byte that is counted down leaves the rest of its run (42_packbits.md R189). -/
theorem outputLeft_countDown_rep (hf : s.fsm = .repEmit) (hc : 1 ≤ s.cnt.toNat) : (countDown s).outputLeft =
    (packBitsOutput 0 s.rd.toNat (countDown s).bytesLeft).repeated s.repv s.rd.toNat (s.cnt.toNat - 1) := by
  obtain ⟨hcnt, hstay | ⟨hend, hz⟩⟩ := countDown_of_one_le hc
  · rw [outputLeft_repEmit (hstay.trans hf), hcnt]
    rfl
  · rw [outputLeft_boundary (.inl hend), hz]
    rfl

/-- What a micro-step of a running channel command does of the output that is left: it writes none of it, or its first
byte, or it ends the command, for want of room for that byte or with no byte left. -/
inductive Progress (s t : State) : Prop where
  | silent (running : t.fsm ≠ .idle) (output : s.outputLeft = t.outputLeft) (wr : t.wr = s.wr) (dst : t.dst = s.dst)
  | emits (b : Byte) (running : t.fsm ≠ .idle) (output : s.outputLeft = t.outputLeft.cons b t.rd.toNat)
      (room : s.wr.toNat < s.dstLen.toNat) (inside : s.wr.toNat < s.config.dstCap.val) (wr : t.wr = s.wr + 4)
      (dst : t.dst = s.dst.write s.wr.toNat b)
  | full (b : Byte) (rest : Output) (output : s.outputLeft = rest.cons b t.rd.toNat)
      (full : s.dstLen.toNat ≤ s.wr.toNat) (ended : t.fsm = .idle) (status : t.status = .failed .bufferTooSmall)
      (wr : t.wr = s.wr) (dst : t.dst = s.dst)
  | ends (truncated : Bool) (output : s.outputLeft = ⟨[], truncated⟩) (rd : t.rd.toNat = s.srcLen.toNat)
      (ended : t.fsm = .idle) (status : t.status = if truncated then .failed .truncatedInput else .succeeded)
      (wr : t.wr = s.wr) (dst : t.dst = s.dst)

/-- Where S(RD) is the next output byte, the output begins with it (41_raw_unpacker.md R161, 42_packbits.md R187). -/
theorem outputLeft_of_raw (hf : s.fsm = .raw) (hsame : s.sameSurroundings t) (hrd : t.rd = s.rd + 1)
    (input : s.rd.toNat < s.srcLen.toNat) :
    s.outputLeft = (rawOutput t.rd.toNat t.bytesLeft).cons (s.srcByte s.readAddr) t.rd.toNat := by
  rw [outputLeft_raw hf, bytesLeft_cons hsame hrd input, hrd, rd_add_one_toNat input]
  rfl

theorem outputLeft_of_lit (hf : s.fsm = .lit) (hc : 1 ≤ s.cnt.toNat) (hsame : s.sameSurroundings t)
    (hrd : t.rd = s.rd + 1) (input : s.rd.toNat < s.srcLen.toNat) : s.outputLeft =
      (packBitsOutput (s.cnt.toNat - 1) t.rd.toNat t.bytesLeft).cons (s.srcByte s.readAddr) t.rd.toNat := by
  obtain ⟨n, hn⟩ := Nat.exists_eq_add_of_le' hc
  rw [outputLeft_lit hf, bytesLeft_cons hsame hrd input, hrd, rd_add_one_toNat input, hn]
  rfl

/-- A repeat run begins with one of its bytes (42_packbits.md R189). -/
theorem outputLeft_of_rep (hf : s.fsm = .repEmit) (hc : 1 ≤ s.cnt.toNat) : s.outputLeft =
    ((packBitsOutput 0 s.rd.toNat s.bytesLeft).repeated s.repv s.rd.toNat (s.cnt.toNat - 1)).cons
      s.repv s.rd.toNat := by
  obtain ⟨n, hn⟩ := Nat.exists_eq_add_of_le' hc
  rw [outputLeft_repEmit hf, hn]
  rfl

/-- A run whose next byte is missing is cut short, with no output byte left (42_packbits.md R188, R190). -/
theorem outputLeft_of_short (hf : s.fsm = .lit ∨ s.fsm = .repFetch) (hc : 1 ≤ s.cnt.toNat)
    (out : ¬ s.rd.toNat < s.srcLen.toNat) : s.outputLeft = ⟨[], true⟩ := by
  obtain ⟨n, hn⟩ := Nat.exists_eq_add_of_le' hc
  obtain hf | hf := hf
  · rw [outputLeft_lit hf, bytesLeft_nil out, hn]
    rfl
  · rw [outputLeft_repFetch hf, bytesLeft_nil out]
    rfl

/-- Every micro-step of a running channel command is one of these. -/
theorem progress_of_moves (h : s.ReadsChannel) (hr : s.Reported) (hn : s.fsm ≠ .idle) (hm : Moves s t) :
    Progress s t := by
  have hsame := moves_surroundings hm
  have hstatus := hr.running hn
  have hend (out : ¬ s.rd.toNat < s.srcLen.toNat) : s.rd.toNat = s.srcLen.toNat :=
    Nat.le_antisymm h.readCursor (Nat.not_lt.1 out)
  cases hm with
  | idle hf => exact absurd hf hn
  | fillByte hf _ _ | fillEnd hf _ => exact absurd hf h.notFilling
  | rawByte hf input _ room inside =>
    refine .emits _ hn ?_ room inside rfl rfl
    exact (outputLeft_of_raw hf hsame rfl input).trans
      (congrArg (Output.cons _ _) (outputLeft_raw (s := stored _ 4 (consume s)) hf).symm)
  | rawFull hf input _ full =>
    exact .full _ _ (outputLeft_of_raw hf hsame rfl input) (Nat.not_lt.1 full) rfl rfl rfl rfl
  | rawEnd hf out =>
    refine .ends false ?_ (hend out) rfl (congrArg Status.finished hstatus) rfl rfl
    rw [outputLeft_raw hf, bytesLeft_nil out]
    rfl
  | streamEnd hf out =>
    refine .ends false ?_ (hend out) rfl (congrArg Status.finished hstatus) rfl rfl
    rw [outputLeft_boundary (.inl hf), bytesLeft_nil out]
    rfl
  | control hf input _ =>
    have hp := isPackBits_openPacket (s.srcByte s.readAddr) s
    refine .silent (ne_idle_of_isPackBits hp) (outputLeft_openPacket hf input hsame) ?_ (openPacket_dst _ s)
    cases decodeControl (s.srcByte s.readAddr) <;> rfl
  | noop hf =>
    refine .silent nofun ?_ rfl rfl
    rw [outputLeft_boundary (.inr hf), outputLeft_boundary (.inl rfl), bytesLeft_congr hsame rfl]
    rfl
  | litByte hf input _ room inside =>
    have hc := h.counter (by simp [hf, isCounting])
    have hp := isPackBits_countDown (s := stored (s.srcByte s.readAddr) 4 (consume s)) (by simp [hf, isPackBits])
    refine .emits _ (ne_idle_of_isPackBits hp) ?_ room inside rfl rfl
    exact (outputLeft_of_lit hf hc hsame rfl input).trans
      (congrArg (Output.cons _ _) (outputLeft_countDown_lit (s := stored _ 4 (consume s)) hf hc).symm)
  | litFull hf input _ full =>
    have hc := h.counter (by simp [hf, isCounting])
    exact .full _ _ (outputLeft_of_lit hf hc hsame rfl input) (Nat.not_lt.1 full) rfl rfl rfl rfl
  | litShort hf out =>
    exact .ends true (outputLeft_of_short (.inl hf) (h.counter (by simp [hf, isCounting])) out) (hend out) rfl rfl rfl
      rfl
  | fetchValue hf input _ =>
    refine .silent nofun ?_ rfl rfl
    rw [outputLeft_repFetch hf, bytesLeft_cons hsame rfl input, outputLeft_repEmit rfl, repeatOutput,
      ← rd_add_one_toNat input]
    rfl
  | fetchShort hf out =>
    exact .ends true (outputLeft_of_short (.inr hf) (h.counter (by simp [hf, isCounting])) out) (hend out) rfl rfl rfl
      rfl
  | repByte hf room inside =>
    have hc := h.counter (by simp [hf, isCounting])
    have hp := isPackBits_countDown (s := stored s.repv 4 s) (by simp [hf, isPackBits])
    refine .emits _ (ne_idle_of_isPackBits hp) ?_ room inside rfl rfl
    rw [outputLeft_of_rep hf hc, ← bytesLeft_congr hsame rfl]
    exact congrArg (Output.cons _ _) (outputLeft_countDown_rep (s := stored s.repv 4 s) hf hc).symm
  | repFull hf full =>
    exact .full _ _ (outputLeft_of_rep hf (h.counter (by simp [hf, isCounting]))) (Nat.not_lt.1 full) rfl rfl rfl rfl

end Sys2Proof.Machine
end


/-! SUPPORT. A channel command from its start to its end, and UNPACK.RAW's end by the bytes of its channel. -/
section
namespace Sys2Proof.Machine

variable {s t u : State} {i : Instr} {m : Mode}

/-! ### A channel command's run -/

/-- What a state shows of a command's end. -/
def State.channelEnd (s : State) : ChannelEnd where
  bytes := s.dstByte
  status := s.status
  rd := s.rd.toNat
  wr := s.wr.toNat

/-- The end that the output still to be written gives. -/
def State.endAhead (s : State) : ChannelEnd :=
  s.outputLeft.endFrom s.wr.toNat s.dstLen.toNat s.srcLen.toNat s.dstByte

/-- A channel command with a given end: that end lies ahead while it runs, and stands there when it is idle again. -/
structure ChannelRun (e : ChannelEnd) (u : State) : Prop where
  reads : u.ReadsChannel
  reported : u.Reported
  ahead : u.fsm ≠ .idle → u.endAhead = e
  reached : u.fsm = .idle → u.channelEnd = e

theorem dstByte_congr (hdst : t.dst = s.dst) (hepoch : t.ramEpoch = s.ramEpoch) : t.dstByte = s.dstByte := by
  funext a
  simp only [State.dstByte, hdst, hepoch]

theorem dstByte_of_write {a : Nat} {b : Byte} (hdst : t.dst = s.dst.write a b) (hepoch : t.ramEpoch = s.ramEpoch) :
    t.dstByte = fun x => if a = x then b else s.dstByte x := by
  funext x
  simp only [State.dstByte, hdst, hepoch, Memory.get?_write]
  split <;> rfl

/-- A micro-step leaves the end as it was: what it writes is the first of the bytes that were still to be written. -/
theorem channelRun_of_moves {e : ChannelEnd} (h : ChannelRun e u) (hm : Moves u t) : ChannelRun e t := by
  have hreads := readsChannel_of_moves h.reads hm
  have hreported := reported_of_moves h.reported hm
  by_cases hn : u.fsm = .idle
  · cases (moves_iff.1 hm).symm.trans (moves_iff.1 (.idle hn))
    exact h
  have he := h.ahead hn
  obtain ⟨-, -, hsrcLen, hdstLen, -, hepoch, -⟩ := moves_surroundings hm
  unfold State.endAhead at he
  cases progress_of_moves h.reads h.reported hn hm with
  | silent running output wr dst =>
    refine ⟨hreads, hreported, fun _ => ?_, fun hidle => absurd hidle running⟩
    rw [← he, State.endAhead, output, wr, ← hdstLen, ← hsrcLen, dstByte_congr dst hepoch.symm]
  | emits b running output room inside wr dst =>
    refine ⟨hreads, hreported, fun _ => ?_, fun hidle => absurd hidle running⟩
    have hwr : t.wr.toNat = u.wr.toNat + 4 := wr ▸ wr_add_toNat inside (by decide)
    rw [← he, State.endAhead, output, Output.endFrom_cons room, hwr, ← hdstLen, ← hsrcLen,
      dstByte_of_write dst hepoch.symm]
  | full b rest output full ended status wr dst =>
    refine ⟨hreads, hreported, fun hn => absurd ended hn, fun _ => ?_⟩
    rw [← he, output, Output.endFrom_full full, State.channelEnd, status, wr, dstByte_congr dst hepoch.symm]
  | ends truncated output rd ended status wr dst =>
    refine ⟨hreads, hreported, fun hn => absurd ended hn, fun _ => ?_⟩
    rw [← he, output, Output.endFrom_nil, State.channelEnd, status, wr, rd, dstByte_congr dst hepoch.symm]

/-- At its start a channel command has its whole channel to read (40_command_interface.md R135). -/
theorem bytesLeft_start (i : Instr) (w : Word) (s : State) :
    (startCommand i (latchCommand w s)).bytesLeft = s.channelBytes := by
  refine List.ext_getElem? fun j => ?_
  simp [State.bytesLeft, State.channelBytes, State.readAddr, ramBytes_getElem?, State.ramByte, State.srcByte]

/-- At its start a channel command has its channel's whole output to write. -/
theorem outputLeft_start (hm : modeOf i = some m) (w : Word) (s : State) :
    (startCommand i (latchCommand w s)).outputLeft = channelOutput m s.channelBytes := by
  cases i with
  | unpackRaw _ | unpackPb _ =>
    cases hm
    exact congrArg _ (bytesLeft_start _ w s)
  | dispatch _ _ =>
    cases hm
    cases m <;> exact congrArg _ (bytesLeft_start _ w s)
  | fill _ | pbNop | pbLit _ | pbRep _ | rawByte _ => cases hm

theorem channelRun_start (hm : modeOf i = some m) (w : Word) (s : State) :
    ChannelRun ((channelOutput m s.channelBytes).endFrom (slotOf i) s.dstLen.toNat s.srcLen.toNat s.dstByte)
      (startCommand i (latchCommand w s)) := by
  have hmode : modeOf i ≠ none := by simp [hm]
  have hi := format_of_modeOf hmode
  have hfill : startFsm i ≠ .filling := mt (modeOf_eq_none_iff (runsIn_startFsm hi)).2 hmode
  refine ⟨⟨hfill, Nat.zero_le _, by simp⟩, reported_startCommand hi w s, fun _ => ?_,
    fun hidle => absurd hidle (startFsm_ne_idle hi)⟩
  rw [State.endAhead, outputLeft_start hm, startCommand_wr, startWr_toNat]
  rfl

theorem runCommand_cmd (hb : s.status.busy = false) (h : runCommand i s = .next t) : t.cmd = commandWord i := by
  have hstart : (acceptCommand (commandWord i) s).cmd = commandWord i := by
    obtain ⟨j, -, -, he⟩ | ⟨-, he⟩ := acceptCommand_cases (commandWord i) s
    · rw [he]; rfl
    · rw [he]; rfl
  rw [runCommand_of_not_busy i hb] at h
  exact runEngine_keeps (P := fun u => u.cmd = commandWord i) (fun _ _ hu hm => (moves_cmd hm).trans hu) hstart h

/-- A channel command whose ranges hold completes with the end that its channel's output gives. -/
theorem exists_channelEnd (hm : modeOf i = some m) (hb : s.status.busy = false) (hr : s.rangesOk i = true) :
    ∃ t, runCommand i s = .next t ∧ t.fsm = .idle ∧ t.channelEnd =
      (channelOutput m s.channelBytes).endFrom (slotOf i) s.dstLen.toNat s.srcLen.toNat s.dstByte := by
  have hi : i.format = .cmd32 := format_of_modeOf (by simp [hm])
  rw [runCommand_of_not_busy i hb, acceptCommand_of_rangesOk hi hr]
  obtain ⟨t, hrun, hidle⟩ := runEngine_ends (fits_startCommand hi hr _) (stepsLeft_le_commandBound _)
  have hend := runEngine_keeps (fun _ _ => channelRun_of_moves) (channelRun_start hm _ s) hrun
  exact ⟨t, hrun, hidle, hend.reached hidle⟩

/-- Settles O34: every micro-step keeps the end that the output still to be written gives, which at the command's start
is the end of the whole output. -/
theorem channelCommandsWriteTheirOutput : Obligations.ChannelCommandsWriteTheirOutput := by
  intro i m s hm hb hbuffer hchannel
  have hi : i.format = .cmd32 := format_of_modeOf (by simp [hm])
  have hr : s.rangesOk i = true := (rangesOk_iff hi).2 ⟨hbuffer, .inr hchannel⟩
  obtain ⟨t, hrun, hidle, hend⟩ := exists_channelEnd hm hb hr
  obtain ⟨hbytes, hstatus, hrd, hwr⟩ := ChannelEnd.mk.inj hend
  exact ⟨t, (exec_command hi s).trans hrun, ⟨congrFun hbytes, hstatus, hrd, hwr⟩, runCommand_cmd hb hrun, hidle,
    runCommand_surroundings hrun, fun hraw => (commandRun_of_rangesOk hi hb hr hrun).hidden (by simp [hm, hraw])⟩

/-! ### UNPACK.RAW -/

/-- Every byte of a raw channel is an output byte (30_encoding.md R101). -/
theorem rawOutput_getElem? (k j : Nat) (bs : List Byte) :
    (rawOutput k bs).writes[j]? = bs[j]?.map fun b => (b, k + j + 1) := by
  induction bs generalizing k j with
  | nil => rfl
  | cons b bs ih =>
    cases j with
    | zero => rfl
    | succ j =>
      rw [rawOutput, Output.cons_writes, List.getElem?_cons_succ, ih, List.getElem?_cons_succ, Nat.add_right_comm k 1 j,
        Nat.add_assoc k j 1]

theorem rawOutput_length (k : Nat) (bs : List Byte) : (rawOutput k bs).writes.length = bs.length := by
  induction bs generalizing k with
  | nil => rfl
  | cons b bs ih => exact congrArg (· + 1) (ih (k + 1))

theorem rawOutput_truncated (k : Nat) (bs : List Byte) : (rawOutput k bs).truncated = false := by
  induction bs generalizing k with
  | nil => rfl
  | cons b bs ih => exact ih (k + 1)

/-- The room for output bytes is the least index whose write position is not below the length
(41_raw_unpacker.md R165). -/
theorem roomFor_eq_iff {slot length f : Nat} : roomFor slot length = f ↔
    length ≤ slot + 4 * f ∧ ∀ i, i < f → slot + 4 * i < length := by
  unfold roomFor
  constructor
  · rintro rfl
    exact ⟨by omega, fun i hi => by omega⟩
  · rintro ⟨hleast, hbelow⟩
    cases f with
    | zero => omega
    | succ f =>
      have := hbelow f (Nat.lt_succ_self f)
      omega

theorem afterWrites_at {o : Output} {slot n j : Nat} {w : Byte × Nat} (hj : j < n) (hw : o.writes[j]? = some w)
    (before : Nat → Byte) : afterWrites o slot n before (slot + 4 * j) = w.1 := by
  simp [afterWrites, hj, hw]

theorem afterWrites_other {o : Output} {slot n a : Nat} (ha : ∀ j, j < n → a ≠ slot + 4 * j)
    (before : Nat → Byte) : afterWrites o slot n before a = before a := by
  refine if_neg fun ⟨hle, hmod, hlt⟩ => ha _ hlt ?_
  omega

/-- What UNPACK.RAW writes: the channel's bytes, each with the number of bytes up to it (41_raw_unpacker.md R164). -/
theorem getElem?_rawOutput_channelBytes (s : State) (j : Nat) :
    (channelOutput .raw s.channelBytes).writes[j]? =
      if j < s.srcLen.toNat then some (s.srcByte (s.srcOff.toNat + j), j + 1) else none := by
  rw [channelOutput, rawOutput_getElem?, State.channelBytes, ramBytes_getElem?, Nat.zero_add]
  split <;> rfl

theorem length_rawOutput_channelBytes (s : State) :
    (channelOutput .raw s.channelBytes).writes.length = s.srcLen.toNat :=
  (rawOutput_length 0 _).trans (ramBytes_length s .src _ _)

/-- A raw channel succeeds where there is room for all of its bytes (41_raw_unpacker.md R164, R165). -/
theorem channelStatus_raw (s : State) (slot length : Nat) :
    channelStatus (channelOutput .raw s.channelBytes) slot length =
      if s.srcLen.toNat ≤ roomFor slot length then .succeeded else .failed .bufferTooSmall := by
  have htruncated : (channelOutput .raw s.channelBytes).truncated = false := rawOutput_truncated 0 _
  unfold channelStatus
  rw [length_rawOutput_channelBytes, htruncated]
  by_cases hfit : s.srcLen.toNat ≤ roomFor slot length
  · rw [if_neg (Nat.not_lt.2 hfit), if_pos hfit]
    rfl
  · rw [if_pos (Nat.lt_of_not_le hfit), if_neg hfit]

/-- Settles O31: the channel's output is its bytes, and f is the room for them. -/
theorem unpackRawCopiesAtStrideFour : Obligations.UnpackRawCopiesAtStrideFour := by
  intro slot s f hb hbuffer hchannel hleast hbelow
  obtain ⟨t, hexec, ⟨hbytes, hstatus, hrd, hwr⟩, hcmd, hidle, hsame, hhidden⟩ :=
    channelCommandsWriteTheirOutput (.unpackRaw slot) .raw s rfl hb hbuffer hchannel
  obtain ⟨hctrl, hcnt, hrepv⟩ := hhidden rfl
  have hroom : roomFor (slotOf (.unpackRaw slot)) s.dstLen.toNat = f := roomFor_eq_iff.2 ⟨hleast, hbelow⟩
  have hcount : writtenCount (channelOutput .raw s.channelBytes) (slotOf (.unpackRaw slot)) s.dstLen.toNat =
      min f s.srcLen.toNat := by
    rw [writtenCount, hroom, length_rawOutput_channelBytes, Nat.min_comm]
  rw [hcount] at hbytes hwr
  refine ⟨t, hexec, fun j hj => ?_, fun a ha => ?_, ?_, ?_, hwr, hcmd, hidle, hctrl, hcnt, hrepv, hsame⟩
  · have hw := getElem?_rawOutput_channelBytes s j
    rw [if_pos (hj.trans_le (Nat.min_le_right _ _))] at hw
    exact (hbytes _).trans (afterWrites_at hj hw _)
  · exact (hbytes a).trans (afterWrites_other ha _)
  · rw [hstatus, channelStatus_raw, hroom]
    rfl
  · rw [hrd, channelRd, hroom, getElem?_rawOutput_channelBytes]
    by_cases hfit : s.srcLen.toNat ≤ f
    · rw [if_neg (Nat.not_lt.2 hfit), if_pos hfit]
    · rw [if_pos (Nat.lt_of_not_le hfit), if_neg hfit]

/-- Settles O32: there is room for all L bytes exactly where the last one's position is below DST_LEN. -/
theorem unpackRawCapacity : Obligations.UnpackRawCapacity := by
  intro slot s hb hbuffer hchannel
  obtain ⟨t, hexec, ⟨-, hstatus, -⟩, -⟩ :=
    channelCommandsWriteTheirOutput (.unpackRaw slot) .raw s rfl hb hbuffer hchannel
  rw [channelStatus_raw] at hstatus
  have hfits : s.srcLen.toNat ≤ roomFor (slotOf (.unpackRaw slot)) s.dstLen.toNat ↔
      s.srcLen.toNat = 0 ∨ slot.toNat + (s.srcLen.toNat - 1) * 4 + 1 ≤ s.dstLen.toNat := by
    simp only [roomFor, slotOf]
    omega
  refine ⟨t, hexec, ?_⟩
  rw [hstatus]
  split
  · next hfit => exact ⟨iff_of_true rfl (hfits.1 hfit), nofun⟩
  · next hshort => exact ⟨iff_of_false nofun (mt hfits.2 hshort), fun _ => ⟨rfl, rfl⟩⟩

/-! ### RAW.BYTE -/

/-- A byte that has room is stored, where the buffer fits DST (41_raw_unpacker.md R161). -/
theorem emitByte_of_room (b : Byte) (room : s.wr.toNat < s.dstLen.toNat) (inside : s.wr.toNat < s.config.dstCap.val) :
    emitByte b s = .next (stored b 4 s) := by
  simp [emitByte, store, State.hasRoom, room, inside]

/-- A byte that has no room raises BufferTooSmall (41_raw_unpacker.md R161). -/
theorem emitByte_of_full (b : Byte) (full : s.dstLen.toNat ≤ s.wr.toNat) :
    emitByte b s = .next (raiseError .bufferTooSmall s) := by
  simp [emitByte, State.hasRoom, full]

/-- Settles O50: the byte is consumed, which leaves WR and the room for it as they were. -/
theorem rawByteIsWrittenOrRefusedForRoom : Obligations.RawByteIsWrittenOrRefusedForRoom :=
  fun b s hbuffer => ⟨fun room => emitByte_of_room (s := consume s) b room (room.trans_le hbuffer),
    fun full => emitByte_of_full (s := consume s) b full⟩

end Sys2Proof.Machine
end


/-! SUPPORT. The PackBits decoder's micro-steps, and what they do while the host reads and writes or waits. -/
section
namespace Sys2Proof.Machine

variable {s t : State}

/-! ### The engine moves while a command runs -/

/-- Settles O12: the checked ranges give a micro-step, and it lowers the count of those left. -/
theorem busyEngineAlwaysMoves : Obligations.BusyEngineAlwaysMoves := by
  intro s h hb
  obtain ⟨t, hm⟩ := exists_moves (fits_of_inv h)
  refine ⟨t, moves_iff.1 hm, ?_⟩
  rintro rfl
  exact Nat.lt_irrefl _ (moves_stepsLeft hm (h.busyIff.1 hb))

/-! ### The rows of R196 -/

/-- CTRL takes PB.LIT's control byte as it stands in the stream (42_packbits.md R183). -/
theorem litControl_setWidth {c : Byte} (hc : c.toNat < 0x80) : litControl (c.setWidth 7) = c := by
  have h := encode_decodeControl c
  rw [decodeControl_literal hc] at h
  exact Code.pb8.inj h

/-- PB.LIT's control byte c sets CNT to c + 1 (42_packbits.md R196). -/
theorem openPacket_literal {c : Byte} (hc : c.toNat < 0x80) (s : State) :
    openPacket (decodeControl c) s = { s with ctrl := c, rd := s.rd + 1, cnt := c + 1, fsm := .lit } := by
  have hcnt : BitVec.ofNat 8 (literalCount (c.setWidth 7)) = c + 1 := by
    rw [literalCount]
    bv_omega
  rw [decodeControl_literal hc, openPacket, openLiteral, hcnt, litControl_setWidth hc]
  rfl

/-- PB.REP's control byte c sets CNT to 257 - c (42_packbits.md R196). -/
theorem openPacket_repeat {c : Byte} (hc : 0x81 ≤ c.toNat) (s : State) :
    openPacket (decodeControl c) s =
      { s with ctrl := c, rd := s.rd + 1, cnt := BitVec.ofNat 8 (257 - c.toNat), fsm := .repFetch } := by
  rw [decodeControl_repeat hc]
  rfl

/-- Settles O36: each row is one of the engine's moves, whose access the ranges keep inside the RAM. -/
theorem packBitsMicroSteps : Obligations.PackBitsMicroSteps := by
  intro s hbuffer hchannel c tooSmall truncated
  have readable (input : s.rd.toNat < s.srcLen.toNat) : s.readAddr < s.config.srcCap.val := readAddr_lt hchannel input
  have inside (room : s.wr.toNat < s.dstLen.toNat) : s.wr.toNat < s.config.dstCap.val := room.trans_le hbuffer
  have out (hend : s.rd = s.srcLen) : ¬ s.rd.toNat < s.srcLen.toNat := by simp [hend]
  have control (hf : s.fsm = .awaitCtrl) (input : s.rd.toNat < s.srcLen.toNat) :
      microStep s = .next (openPacket (decodeControl c) s) := moves_iff.1 (.control hf input (readable input))
  refine ⟨fun hf hend => ?_, fun hf input hc => ?_, fun hf input hc => ?_, fun hf input hc => ?_, fun hf => ?_,
    fun hf hend => ?_, fun hf input full => ?_, fun hf input room => ?_, fun hf hend => ?_, fun hf input => ?_,
    fun hf full => ?_, fun hf room => ?_⟩
  · exact moves_iff.1 (.streamEnd hf (out hend))
  · rw [control hf input, hc]
    rfl
  · rw [control hf input, openPacket_literal hc]
  · rw [control hf input, openPacket_repeat hc]
  · exact moves_iff.1 (.noop hf)
  · exact moves_iff.1 (.litShort hf (out hend))
  · exact moves_iff.1 (.litFull hf input (readable input) (Nat.not_lt.2 full))
  · rw [← hf]
    exact moves_iff.1 (.litByte hf input (readable input) room (inside room))
  · exact moves_iff.1 (.fetchShort hf (out hend))
  · exact moves_iff.1 (.fetchValue hf input (readable input))
  · exact moves_iff.1 (.repFull hf (Nat.not_lt.2 full))
  · rw [← hf]
    exact moves_iff.1 (.repByte hf room (inside room))

/-! ### PB.NOP -/

/-- Settles O45: after its control byte one micro-step leads back to AWAIT_CTRL, where the packet ends. -/
theorem pbNopConsumesOneByte : Obligations.PbNopConsumesOneByte := by
  intro s
  calc exec .pbNop s = runEngine packetEnded 129 (openNop s) := rfl
    _ = runEngine packetEnded 128 (noopStep (openNop s)) := runEngine_succ rfl (.noop rfl)
    _ = .next (noopStep (openNop s)) := runEngine_stop rfl

/-! ### Steps that run an instruction -/

/-- While the host waits for a command or has nothing to do, the engine has the turn (log 7). -/
theorem step_of_waiting (h : s.agenda = [] ∨ (s.status.busy = true ∧ ∃ rest, s.agenda = .wait :: rest)) :
    step s = engineTurn s := by
  obtain h | ⟨hb, rest, h⟩ := h
  · exact step_of_empty h
  · exact (waitPollsBusy s rest h).2 hb

/-- A byte of the channel that lies inside SRC is read (20_memory.md R65). -/
theorem withInput_of_readable (f : Byte → Result) (readable : s.readAddr < s.config.srcCap.val) :
    withInput s f = f (s.srcByte s.readAddr) := if_pos readable

/-- Settles O27: the CMD write runs the command its word decodes to, the engine's turn the element at RD. -/
theorem stepRunsTheDecodedInstruction : Obligations.StepRunsTheDecodedInstruction := by
  refine ⟨fun s w i rest hs hb hd => ?_, fun s i hwait input readable => ?_⟩
  · rw [step_of_turn hs]
    simp [takeTurn, hostCommand, hb, hd]
  · have hin : s.hasInput = true := (hasInput_iff s).2 input
    rw [step_of_waiting hwait]
    refine ⟨fun hf hd => ?_, fun hf hd => ?_⟩
    all_goals
      cases hd
      simp only [engineTurn, hf, hin, if_true]
      exact withInput_of_readable _ readable

/-! ### Host accesses while a command runs -/

/-- No register write changes anything while a command runs (40_command_interface.md R140, R143). -/
theorem writeRegister_of_busy (h : s.Inv) (hb : s.status.busy = true) (r : Reg) (v : Word) :
    writeRegister r v s = s := by
  cases r with
  | cmd | srcOff | srcLen | dstLen => simp [writeRegister, hb]
  | status =>
    have hflags : s.status.acknowledged v = s.status := by rw [status_of_busy h hb, Status.acknowledged_running]
    rw [writeRegister, acknowledge, hflags]
  | rdCur | wrCur | reserved => rfl

theorem hostWriteReg_of_busy (h : s.Inv) (hb : s.status.busy = true) {o w : Nat} {v : Word}
    (ht : hostWriteReg o w v s = .next t) : t = s := by
  obtain ⟨-, r, -, rfl⟩ := hostWriteReg_eq_next.1 ht
  exact writeRegister_of_busy h hb r v

/-- A host write that answers while a command runs is one of a register, and leaves the state (log 10). -/
theorem hostWrite_of_busy (h : s.Inv) (hb : s.status.busy = true) {w : Nat} {v : Word} {p : Place}
    (ht : hostWrite w v p s = .next t) : t = s := by
  cases p with
  | reg o => exact hostWriteReg_of_busy h hb ht
  | ram r a =>
    obtain ⟨-, -, hidle, -⟩ := hostWriteRam_eq_next.1 ht
    exact absurd (hb.symm.trans hidle) nofun

theorem hostReadReg_leaves_block {o w : Nat} (ht : hostReadReg o w s = .next t) :
    { t with draws := s.draws, received := s.received } = s := by
  obtain ⟨-, r, -, rfl⟩ := hostReadReg_eq_next.1 ht
  rfl

theorem hostReadRam_leaves_block {ram : Ram} {a w : Nat} (ht : hostReadRam ram a w s = .next t) :
    { t with draws := s.draws, received := s.received } = s := by
  obtain ⟨-, -, n, v, rfl⟩ := hostReadRam_next ht
  rfl

theorem hostRead_leaves_block {w : Nat} {p : Place} (ht : hostRead w p s = .next t) :
    { t with draws := s.draws, received := s.received } = s := by
  cases p with
  | reg o => exact hostReadReg_leaves_block ht
  | ram r a => exact hostReadRam_leaves_block ht

/-- A CMD write with its command run whole is ignored while another runs (40_command_interface.md R140). -/
theorem hostCommand_of_busy (hb : s.status.busy = true) {w : Word} (ht : hostCommand w s = .next t) : t = s := by
  rw [hostCommand, if_pos hb] at ht
  cases ht
  rfl

/-- Settles O26: a read leaves the block, whatever it returns, and a write finds BUSY = 1. -/
theorem busyHostAccessesLeaveTheBlock : Obligations.BusyHostAccessesLeaveTheBlock := by
  intro s t turn rest h hb hs hturn hstep
  have h' : State.Inv { s with agenda := rest } := inv_hostFields h s.draws rest s.received
  have ht : takeTurn turn rest s = .next t := step_of_turn hs ▸ hstep
  obtain ⟨o, w, rfl⟩ | ⟨o, w, v, rfl⟩ | ⟨r, a, w, rfl⟩ | ⟨a, w, rfl⟩ | ⟨a, w, v, rfl⟩ | ⟨w, rfl⟩ := hturn
  · exact hostReadReg_leaves_block ht
  · rw [hostWriteReg_of_busy h' hb ht]
  · exact hostReadRam_leaves_block ht
  · obtain ⟨p, -, hp⟩ := atPlace_eq_next.1 ht
    exact hostRead_leaves_block hp
  · obtain ⟨p, -, hp⟩ := atPlace_eq_next.1 ht
    rw [hostWrite_of_busy h' hb hp]
  · rw [hostCommand_of_busy (s := { s with agenda := rest }) hb ht]

end Sys2Proof.Machine
end


/-! SUPPORT. The engine's explicit turns: a run of them is a run of micro-steps, up to a command's or a packet's end. -/
section
namespace Sys2Proof.Machine

variable {s t : State}

/-! ### The agenda is no part of what the engine does -/

/-- A state with exactly n explicit turns of the engine on its agenda (log 5). -/
def State.withEngineTurns (n : Nat) (s : State) : State := { s with agenda := List.replicate n .engine }

theorem openPacket_withEngineTurns (i : Instr) (n : Nat) (s : State) :
    openPacket i (s.withEngineTurns n) = (openPacket i s).withEngineTurns n := by
  cases i <;> rfl

theorem acceptCommand_withEngineTurns (w : Word) (n : Nat) (s : State) :
    acceptCommand w (s.withEngineTurns n) = (acceptCommand w s).withEngineTurns n := by
  have hranges (i : Instr) : (s.withEngineTurns n).rangesOk i = s.rangesOk i := rangesOk_congr rfl rfl rfl rfl
  unfold acceptCommand
  split
  · rw [hranges]
    split <;> rfl
  · rfl

/-- A micro-step is the same whatever the host has still to do (00_scope.md R11). -/
theorem moves_withEngineTurns (h : Moves s t) (n : Nat) : Moves (s.withEngineTurns n) (t.withEngineTurns n) := by
  cases h with
  | idle h => exact .idle h
  | fillByte h room inside => exact .fillByte h room inside
  | fillEnd h full => exact .fillEnd h full
  | rawByte h input readable room inside => exact .rawByte h input readable room inside
  | rawFull h input readable full => exact .rawFull h input readable full
  | rawEnd h out => exact .rawEnd h out
  | control h input readable =>
    rw [← openPacket_withEngineTurns]
    exact .control h input readable
  | streamEnd h out => exact .streamEnd h out
  | noop h => exact .noop h
  | litByte h input readable room inside => exact .litByte h input readable room inside
  | litFull h input readable full => exact .litFull h input readable full
  | litShort h out => exact .litShort h out
  | fetchValue h input readable => exact .fetchValue h input readable
  | fetchShort h out => exact .fetchShort h out
  | repByte h room inside => exact .repByte h room inside
  | repFull h full => exact .repFull h full

/-! ### Runs of the machine that are runs of micro-steps -/

/-- A step that answers a next state is the first of a run (Host/Core.lean). -/
theorem run_succ_of_step {n : Nat} (h : step s = .next t) :
    Host.Core.run Sys2Proof.core (n + 1) s = Host.Core.run Sys2Proof.core n t := by
  have hcore : Sys2Proof.core.step s = .next t := h
  simp only [Host.Core.run, hcore]

/-- An explicit turn of the engine is one micro-step (00_scope.md R11, log 7). -/
theorem run_engineTurn (h : Moves s t) (n : Nat) :
    Host.Core.run Sys2Proof.core (n + 1) (s.withEngineTurns (n + 1)) =
      Host.Core.run Sys2Proof.core n (t.withEngineTurns n) :=
  run_succ_of_step ((step_of_turn (t := .engine) (rest := List.replicate n .engine) rfl).trans
    (moves_iff.1 (moves_withEngineTurns h n)))

/-- As many explicit turns as micro-steps run the engine until the command has ended: an idle engine stays as it is
(42_packbits.md R197, 40_command_interface.md R139). -/
theorem run_engineTurns_command (h : s.Fits) (n : Nat) :
    Host.Core.run Sys2Proof.core n (s.withEngineTurns n) = runEngine commandEnded n (s.withEngineTurns 0) := by
  induction n generalizing s with
  | zero => rfl
  | succ n ih =>
    obtain ⟨t, hm⟩ := exists_moves h
    rw [run_engineTurn hm, ih (fits_of_moves h hm)]
    by_cases hf : s.fsm = .idle
    · cases (moves_iff.1 hm).symm.trans (microStep_of_idle hf)
      have hstop : commandEnded (s.withEngineTurns 0).fsm = true := decide_eq_true hf
      rw [runEngine_stop hstop, runEngine_stop hstop]
    · exact (runEngine_succ (decide_eq_false hf) (moves_withEngineTurns hm 0)).symm

/-- Some number of explicit turns stops just where a run of micro-steps stops (42_packbits.md R197). -/
theorem exists_run_engineTurns (stop : Fsm → Bool) (h : s.Fits) (n : Nat) :
    ∃ k, k ≤ n ∧ Host.Core.run Sys2Proof.core k (s.withEngineTurns k) = runEngine stop n (s.withEngineTurns 0) := by
  induction n generalizing s with
  | zero => exact ⟨0, Nat.le_refl 0, rfl⟩
  | succ n ih =>
    cases hstop : stop s.fsm with
    | true => exact ⟨0, Nat.zero_le _, (runEngine_stop (s := s.withEngineTurns 0) hstop).symm⟩
    | false =>
      obtain ⟨t, hm⟩ := exists_moves h
      obtain ⟨k, hk, hrun⟩ := ih (fits_of_moves h hm)
      refine ⟨k + 1, Nat.succ_le_succ hk, ?_⟩
      rw [run_engineTurn hm, hrun]
      exact (runEngine_succ (s := s.withEngineTurns 0) hstop (moves_withEngineTurns hm 0)).symm

/-! ### A whole packet -/

/-- Settles O52: one turn begins the packet, and some number of turns within the packet's bound stops at its end. -/
theorem microStepsReachTheWholePacket : Obligations.MicroStepsReachTheWholePacket := by
  intro s i h hf input hd
  have hfits := fits_of_inv h
  have readable := readAddr_lt (hfits.channel (by simp [hf]) (by simp [hf])) input
  cases hd
  have hm := Moves.control hf input readable
  obtain ⟨k, hk, hrun⟩ := exists_run_engineTurns packetEnded (fits_of_moves hfits hm) 129
  refine ⟨k + 1, Nat.succ_le_succ hk, (run_engineTurn hm k).trans (hrun.trans ?_)⟩
  rw [← openPacket_withEngineTurns]
  exact (exec_packet (decodeControl_format _) _).symm

/-! ### A whole command -/

/-- A run that has reached its stop reaches the same state within any larger bound. -/
theorem runEngine_of_le {stop : Fsm → Bool} {m n : Nat} (h : runEngine stop m s = .next t) (ht : stop t.fsm = true)
    (hle : m ≤ n) : runEngine stop n s = .next t := by
  induction m generalizing s n with
  | zero =>
    cases h
    exact runEngine_stop ht
  | succ m ih =>
    cases hstop : stop s.fsm with
    | true => exact (runEngine_stop hstop).trans ((runEngine_stop hstop).symm.trans h)
    | false =>
      simp only [runEngine, hstop] at h
      obtain ⟨u, hu, hrest⟩ := andThen_eq_next.1 h
      cases n with
      | zero => cases hle
      | succ n =>
        exact (runEngine_succ hstop (microStep_moves hu)).trans (ih hrest (Nat.le_of_succ_le_succ hle))

/-- Settles O39: the CMD write accepts the command, and turns beyond its bound find the engine idle. -/
theorem microStepsReachTheWholeCommand : Obligations.MicroStepsReachTheWholeCommand := by
  intro s w i n hb hf hd hbound
  obtain ⟨hi, rfl⟩ := decodeCommand_eq_ok.1 hd
  have hwrite : step { s with agenda := .writeReg 0x00 4 (commandWord i) :: List.replicate n .engine } =
      .next ((acceptCommand (commandWord i) s).withEngineTurns n) := by
    rw [step_writeReg (r := .cmd) rfl rfl, ← acceptCommand_withEngineTurns]
    exact congrArg _ (if_neg (by simp [hb]))
  have hfits : ((acceptCommand (commandWord i) s).withEngineTurns 0).Fits :=
    acceptCommand_withEngineTurns (commandWord i) 0 s ▸ fits_acceptCommand _ hf
  obtain ⟨t, hrun, hidle⟩ := runEngine_ends hfits (stepsLeft_le_commandBound _)
  have hcommand : exec i (s.withEngineTurns 0) = .next t := by
    rw [exec_command hi, runCommand_of_not_busy (s := s.withEngineTurns 0) i hb, acceptCommand_withEngineTurns, hrun]
  have hturns : runEngine commandEnded n ((acceptCommand (commandWord i) s).withEngineTurns 0) = .next t :=
    runEngine_of_le hrun (decide_eq_true hidle) hbound
  exact (run_succ_of_step hwrite).trans
    ((run_engineTurns_command (fits_acceptCommand _ hf) n).trans (hturns.trans hcommand.symm))

end Sys2Proof.Machine
end


/-! SUPPORT. A counted run, literal or repeated: the state after each of its bytes, its end, and its shortages. -/
section
namespace Sys2Proof.Machine

variable {s t u : State} {values : Nat → Byte} {reads j m : Nat}

/-! ### The bytes a run writes -/

/-- The first j bytes of a run stand from wr on at stride 4, and nothing else has changed (42_packbits.md R187, R189). -/
def WritesRun (values : Nat → Byte) (wr j : Nat) (before after : Nat → Byte) : Prop :=
  (∀ k, k < j → after (wr + 4 * k) = values k) ∧ ∀ a, (∀ k, k < j → a ≠ wr + 4 * k) → after a = before a

theorem writesRun_zero (values : Nat → Byte) (wr : Nat) (before : Nat → Byte) :
    WritesRun values wr 0 before before :=
  ⟨nofun, fun _ _ => rfl⟩

/-- One more byte of the run stands one stride further. -/
theorem writesRun_succ {wr : Nat} {before after : Nat → Byte} (h : WritesRun values wr j before after) :
    WritesRun values wr (j + 1) before (fun a => if wr + 4 * j = a then values j else after a) := by
  obtain ⟨hwritten, hkept⟩ := h
  refine ⟨fun k hk => ?_, fun a ha => ?_⟩
  · obtain hlt | rfl := Nat.lt_succ_iff_lt_or_eq.1 hk
    · exact (if_neg (by omega)).trans (hwritten k hlt)
    · exact if_pos rfl
  · exact (if_neg (ha j (Nat.lt_succ_self j)).symm).trans (hkept a fun k hk => ha k (Nat.lt_succ_of_lt hk))

/-! ### A run under way -/

/-- The state after j bytes of a run that was counted from s, each with so many stream bytes read: 1 in a literal run,
0 in a repeat run (42_packbits.md R187, R189, R196). -/
structure AfterRun (s : State) (values : Nat → Byte) (reads j : Nat) (u : State) : Prop where
  bytes : WritesRun values s.wr.toNat j s.dstByte u.dstByte
  rd : u.rd.toNat = s.rd.toNat + reads * j
  wr : u.wr.toNat = s.wr.toNat + 4 * j
  cnt : u.cnt.toNat = s.cnt.toNat - j
  running : j < s.cnt.toNat → u.fsm = s.fsm
  ended : j = s.cnt.toNat → u.fsm = .awaitCtrl
  ctrl : u.ctrl = s.ctrl
  repv : u.repv = s.repv
  cmd : u.cmd = s.cmd
  status : u.status = s.status
  surroundings : s.sameSurroundings u

theorem afterRun_zero (hc : 1 ≤ s.cnt.toNat) : AfterRun s values reads 0 s where
  bytes := writesRun_zero _ _ _
  rd := rfl
  wr := rfl
  cnt := rfl
  running _ := rfl
  ended h := absurd hc (by omega)
  ctrl := rfl
  repv := rfl
  cmd := rfl
  status := rfl
  surroundings := ⟨rfl, rfl, rfl, rfl, rfl, rfl, rfl, rfl, rfl⟩

/-- A run is over where its count was 1 (42_packbits.md R196). -/
theorem countDown_fsm_eq (s : State) : (countDown s).fsm = if s.cnt.toNat = 1 then .awaitCtrl else s.fsm := by
  rw [countDown_fsm]
  exact if_congr (by bv_omega) rfl rfl

/-- The next byte of a run is stored, at most one stream byte read for it, and the run counted down. -/
theorem afterRun_countDown (h : AfterRun s values reads j u) (hj : j < s.cnt.toNat)
    (inside : u.wr.toNat < u.config.dstCap.val) {r : Word} (hr : r.toNat = u.rd.toNat + reads) :
    AfterRun s values reads (j + 1) (countDown (stored (values j) 4 { u with rd := r })) := by
  have hwr : (u.wr + 4).toNat = u.wr.toNat + 4 := wr_add_toNat inside (by decide)
  have hleft : u.cnt.toNat = s.cnt.toNat - j := h.cnt
  have hcnt : (u.cnt - 1).toNat = u.cnt.toNat - 1 := cnt_sub_one_toNat (by omega)
  have hfsm : (countDown (stored (values j) 4 { u with rd := r })).fsm =
      if s.cnt.toNat - j = 1 then .awaitCtrl else s.fsm := by
    rw [countDown_fsm_eq, ← h.running hj, ← hleft]
  exact {
    bytes := by
      have hbyte : (countDown (stored (values j) 4 { u with rd := r })).dstByte =
          fun a => if s.wr.toNat + 4 * j = a then values j else u.dstByte a := h.wr ▸ dstByte_of_write rfl rfl
      exact hbyte ▸ writesRun_succ h.bytes
    rd := by
      rw [Nat.mul_succ, ← Nat.add_assoc, ← h.rd]
      exact hr
    wr := by
      rw [Nat.mul_succ, ← Nat.add_assoc, ← h.wr]
      exact hwr
    cnt := by
      rw [← Nat.sub_sub, ← hleft]
      exact hcnt
    running := fun hlt => hfsm.trans (if_neg (by omega))
    ended := fun heq => hfsm.trans (if_pos (by omega))
    ctrl := h.ctrl
    repv := h.repv
    cmd := h.cmd
    status := h.status
    surroundings := h.surroundings }

theorem packetEnded_of_isCounting {f : Fsm} (h : isCounting f = true) : packetEnded f = false := by
  cases f with
  | lit | repFetch | repEmit => rfl
  | idle | filling | raw | awaitCtrl | emitNoop => cases h

/-- A run of which each of the first m bytes can be written reaches the state after them. -/
theorem exists_afterRun (hs : isCounting s.fsm = true) (hc : 1 ≤ s.cnt.toNat) (hm : m ≤ s.cnt.toNat)
    (next : ∀ j u, j < m → AfterRun s values reads j u → ∃ t, Moves u t ∧ AfterRun s values reads (j + 1) t) :
    ∃ u, AfterRun s values reads m u ∧ ∀ n, runEngine packetEnded (n + m) s = runEngine packetEnded n u := by
  induction m with
  | zero => exact ⟨s, afterRun_zero hc, fun _ => rfl⟩
  | succ m ih =>
    obtain ⟨u, hu, hrun⟩ := ih (Nat.le_of_succ_le hm) fun j w hj => next j w (Nat.lt_succ_of_lt hj)
    obtain ⟨t, hmove, ht⟩ := next m u (Nat.lt_succ_self m) hu
    have hgoes : packetEnded u.fsm = false := hu.running hm ▸ packetEnded_of_isCounting hs
    exact ⟨t, ht, fun n => (congrArg (runEngine packetEnded · s) (Nat.succ_add_eq_add_succ n m).symm).trans
      ((hrun (n + 1)).trans (runEngine_succ hgoes hmove))⟩

/-! ### Room, input and addresses in a run -/

theorem AfterRun.room_iff (h : AfterRun s values reads j u) :
    u.wr.toNat < u.dstLen.toNat ↔ s.wr.toNat + 4 * j < s.dstLen.toNat := by
  obtain ⟨-, -, -, hlen, -⟩ := h.surroundings
  rw [h.wr, hlen]

theorem AfterRun.input_iff (h : AfterRun s values reads j u) :
    u.rd.toNat < u.srcLen.toNat ↔ s.rd.toNat + reads * j < s.srcLen.toNat := by
  obtain ⟨-, -, hlen, -⟩ := h.surroundings
  rw [h.rd, hlen]

/-- A byte of a run that has room lies inside DST (20_memory.md R65). -/
theorem AfterRun.inside (h : AfterRun s values reads j u) (hbuffer : s.dstLen.toNat ≤ s.config.dstCap.val)
    (room : u.wr.toNat < u.dstLen.toNat) : u.wr.toNat < u.config.dstCap.val := by
  obtain ⟨hconfig, -, -, hlen, -⟩ := h.surroundings
  rw [hlen, hconfig] at hbuffer
  exact room.trans_le hbuffer

/-- A byte of the channel that a run reads lies inside SRC (20_memory.md R65). -/
theorem AfterRun.readable (h : AfterRun s values reads j u)
    (hchannel : s.srcOff.toNat + s.srcLen.toNat ≤ s.config.srcCap.val) (input : u.rd.toNat < u.srcLen.toNat) :
    u.readAddr < u.config.srcCap.val := by
  obtain ⟨hconfig, hoff, hlen, -⟩ := h.surroundings
  rw [hoff, hlen, hconfig] at hchannel
  exact readAddr_lt hchannel input

/-- The byte at RD after j bytes read of a run. -/
theorem AfterRun.srcByte_readAddr (h : AfterRun s values 1 j u) :
    u.srcByte u.readAddr = s.srcByte (s.readAddr + j) := by
  have haddr : u.readAddr = s.readAddr + j := by
    obtain ⟨-, hoff, -⟩ := h.surroundings
    rw [State.readAddr, ← hoff, h.rd, Nat.one_mul, ← Nat.add_assoc, State.readAddr]
  rw [haddr, srcByte_congr h.surroundings]

/-! ### Literal and repeat runs -/

/-- A literal run writes the bytes at RD as far as there is input and room (42_packbits.md R187). -/
theorem exists_afterRun_literal (hf : s.fsm = .lit) (hc : 1 ≤ s.cnt.toNat) (hm : m ≤ s.cnt.toNat)
    (hbuffer : s.dstLen.toNat ≤ s.config.dstCap.val)
    (hchannel : s.srcOff.toNat + s.srcLen.toNat ≤ s.config.srcCap.val)
    (input : ∀ k, k < m → s.rd.toNat + k < s.srcLen.toNat) (room : ∀ k, k < m → s.wr.toNat + 4 * k < s.dstLen.toNat) :
    ∃ u, AfterRun s (fun k => s.srcByte (s.readAddr + k)) 1 m u ∧
      ∀ n, runEngine packetEnded (n + m) s = runEngine packetEnded n u := by
  refine exists_afterRun (by simp [hf, isCounting]) hc hm fun j u hj h => ?_
  have hlit : u.fsm = .lit := (h.running (hj.trans_le hm)).trans hf
  have hinput : u.rd.toNat < u.srcLen.toNat := h.input_iff.2 (by rw [Nat.one_mul]; exact input j hj)
  have hroom : u.wr.toNat < u.dstLen.toNat := h.room_iff.2 (room j hj)
  have hinside := h.inside hbuffer hroom
  refine ⟨_, .litByte hlit hinput (h.readable hchannel hinput) hroom hinside, ?_⟩
  rw [h.srcByte_readAddr]
  exact afterRun_countDown h (hj.trans_le hm) hinside (rd_add_one_toNat hinput)

/-- A repeat run writes REPV as far as there is room (42_packbits.md R189). -/
theorem exists_afterRun_repeat (hf : s.fsm = .repEmit) (hc : 1 ≤ s.cnt.toNat) (hm : m ≤ s.cnt.toNat)
    (hbuffer : s.dstLen.toNat ≤ s.config.dstCap.val) (room : ∀ k, k < m → s.wr.toNat + 4 * k < s.dstLen.toNat) :
    ∃ u, AfterRun s (fun _ => s.repv) 0 m u ∧ ∀ n, runEngine packetEnded (n + m) s = runEngine packetEnded n u := by
  refine exists_afterRun (by simp [hf, isCounting]) hc hm fun j u hj h => ?_
  have hrep : u.fsm = .repEmit := (h.running (hj.trans_le hm)).trans hf
  have hroom : u.wr.toNat < u.dstLen.toNat := h.room_iff.2 (room j hj)
  have hinside := h.inside hbuffer hroom
  refine ⟨_, .repByte hrep hroom hinside, ?_⟩
  rw [h.repv]
  exact afterRun_countDown h (hj.trans_le hm) hinside rfl

/-- A move that ends the command ends the packet's run. -/
theorem runEngine_of_error {n : Nat} (hn : 0 < n) (hs : isCounting s.fsm = true) (hm : Moves s t) (ht : t.fsm = .idle) :
    runEngine packetEnded n s = .next t := by
  obtain ⟨n, rfl⟩ := Nat.exists_eq_add_of_lt hn
  rw [runEngine_succ (packetEnded_of_isCounting hs) hm, runEngine_stop (by rw [ht]; rfl)]

/-! ### PB.LIT -/

/-- PB.LIT after the first m of its n + 1 bytes (42_packbits.md R187). -/
theorem exists_afterRun_pbLit {n : BitVec 7} (hm : m ≤ n.toNat + 1) (hctrl : s.rd.toNat < s.srcLen.toNat)
    (hchannel : s.srcOff.toNat + s.srcLen.toNat ≤ s.config.srcCap.val)
    (hbuffer : s.dstLen.toNat ≤ s.config.dstCap.val)
    (hnext : ∀ k, k < m → s.rd.toNat + 1 + k < s.srcLen.toNat ∧ s.wr.toNat + 4 * k < s.dstLen.toNat) :
    ∃ u, AfterRun (openLiteral n s) (fun k => s.srcByte (s.srcOff.toNat + s.rd.toNat + 1 + k)) 1 m u ∧
      exec (.pbLit n) s = runEngine packetEnded (129 - m) u := by
  have hrd : (openLiteral n s).rd.toNat = s.rd.toNat + 1 := rd_add_one_toNat hctrl
  have hcnt : (openLiteral n s).cnt.toNat = n.toNat + 1 := literalCount_toNat n
  have haddr : (openLiteral n s).readAddr = s.srcOff.toNat + s.rd.toNat + 1 := by
    rw [State.readAddr, hrd, Nat.add_assoc, openLiteral_srcOff]
  obtain ⟨u, hu, hrun⟩ := exists_afterRun_literal (s := openLiteral n s) (m := m) rfl (by omega) (by omega) hbuffer
    hchannel (fun k hk => hrd ▸ (hnext k hk).1) (fun k hk => (hnext k hk).2)
  rw [haddr] at hu
  have hbudget : 129 - m + m = 129 := by omega
  exact ⟨u, hu, (congrArg (runEngine packetEnded · (openLiteral n s)) hbudget.symm).trans (hrun (129 - m))⟩

/-- Settles O46: after its n + 1 bytes the run is over, and the packet with it. -/
theorem pbLitCopiesItsBytes : Obligations.PbLitCopiesItsBytes := by
  intro n s hinput hchannel hroom hbuffer
  have hctrl : s.rd.toNat < s.srcLen.toNat := by omega
  have hrd : (openLiteral n s).rd.toNat = s.rd.toNat + 1 := rd_add_one_toNat hctrl
  have hcnt : (openLiteral n s).cnt.toNat = n.toNat + 1 := literalCount_toNat n
  obtain ⟨u, hu, hexec⟩ := exists_afterRun_pbLit (n := n) (Nat.le_refl _) hctrl hchannel hbuffer
    fun k hk => ⟨by omega, by omega⟩
  have hend : u.fsm = .awaitCtrl := hu.ended hcnt.symm
  obtain ⟨hwritten, hkept⟩ := hu.bytes
  refine ⟨u, hexec.trans (runEngine_stop (by rw [hend]; rfl)), fun k hk => hwritten k (Nat.lt_succ_of_le hk),
    fun a ha => hkept a fun k hk => ha k (Nat.le_of_lt_succ hk), ?_, hu.wr, hu.ctrl, ?_, hend, hu.cmd, hu.status,
    hu.repv, hu.surroundings⟩
  · rw [hu.rd, hrd]
    omega
  · exact BitVec.eq_of_toNat_eq (by rw [hu.cnt, hcnt, Nat.sub_self]; rfl)

/-- Settles O47: after j bytes the next one's micro-step finds no input, or else no room. -/
theorem pbLitShortages : Obligations.PbLitShortages := by
  intro n s j hctrl hj hchannel hbuffer _ hnext hshort
  have hrd : (openLiteral n s).rd.toNat = s.rd.toNat + 1 := rd_add_one_toNat hctrl
  have hcnt : (openLiteral n s).cnt.toNat = n.toNat + 1 := literalCount_toNat n
  obtain ⟨u, hu, hexec⟩ := exists_afterRun_pbLit (n := n) (Nat.le_succ_of_le hj) hctrl hchannel hbuffer hnext
  have hlit : u.fsm = .lit := hu.running (hcnt ▸ Nat.lt_succ_of_le hj)
  have hbudget : 0 < 129 - j := by omega
  obtain ⟨hwritten, hkept⟩ := hu.bytes
  have hurd : u.rd.toNat = s.rd.toNat + 1 + j := by rw [hu.rd, hrd, Nat.one_mul]
  have hinput : u.rd.toNat < u.srcLen.toNat ↔ s.rd.toNat + 1 + j < s.srcLen.toNat := by
    rw [hu.input_iff, hrd, Nat.one_mul]
    rfl
  by_cases hmissing : s.srcLen.toNat ≤ s.rd.toNat + 1 + j
  · have hmove : Moves u (raiseError .truncatedInput u) := .litShort hlit (mt hinput.1 (Nat.not_lt.2 hmissing))
    have hlast : s.rd.toNat + 1 + j ≤ s.srcLen.toNat := by
      cases j with
      | zero => exact hctrl
      | succ j => exact (hnext j (Nat.lt_succ_self j)).1
    exact ⟨_, hexec.trans (runEngine_of_error hbudget (by simp [hlit, isCounting]) hmove rfl), hwritten, hkept, hu.wr,
      fun _ => ⟨BitVec.eq_of_toNat_eq (hurd.trans (Nat.le_antisymm hlast hmissing)), rfl⟩,
      fun h => absurd h (Nat.not_lt.2 hmissing), rfl, hu.cmd, hu.repv, hu.surroundings⟩
  · have input : u.rd.toNat < u.srcLen.toNat := hinput.2 (Nat.not_le.1 hmissing)
    have full : ¬ u.wr.toNat < u.dstLen.toNat := mt hu.room_iff.1 (Nat.not_lt.2 (hshort.resolve_left hmissing))
    have hmove : Moves u (raiseError .bufferTooSmall (consume u)) :=
      .litFull hlit input (hu.readable hchannel input) full
    exact ⟨_, hexec.trans (runEngine_of_error hbudget (by simp [hlit, isCounting]) hmove rfl), hwritten, hkept, hu.wr,
      fun h => absurd h hmissing, fun _ => ⟨(rd_add_one_toNat input).trans (congrArg (· + 1) hurd), rfl⟩, rfl, hu.cmd,
      hu.repv, hu.surroundings⟩

/-! ### PB.REP -/

/-- The state in which PB.REP has its value: control byte and value are consumed (42_packbits.md R189). -/
def withRepeatValue (c : Byte) (s : State) : State :=
  { s with
    ctrl := c, cnt := BitVec.ofNat 8 (repeatCount c), rd := s.rd + 1 + 1
    repv := s.srcByte (openRepeat c s).readAddr, fsm := .repEmit }

theorem rd_withRepeatValue (c : Byte) (input : s.rd.toNat + 1 < s.srcLen.toNat) :
    (withRepeatValue c s).rd.toNat = s.rd.toNat + 2 := by
  have hrd : (openRepeat c s).rd.toNat = s.rd.toNat + 1 := rd_add_one_toNat (Nat.lt_of_succ_lt input)
  have hvalue : (withRepeatValue c s).rd.toNat = (openRepeat c s).rd.toNat + 1 :=
    rd_add_one_toNat (s := openRepeat c s) (hrd ▸ input)
  rw [hvalue, hrd]

/-- The value stands in the stream after the control byte. -/
theorem repv_withRepeatValue (c : Byte) (input : s.rd.toNat < s.srcLen.toNat) :
    (withRepeatValue c s).repv = s.srcByte (s.srcOff.toNat + s.rd.toNat + 1) := by
  have hrd : (openRepeat c s).rd.toNat = s.rd.toNat + 1 := rd_add_one_toNat input
  have haddr : (openRepeat c s).readAddr = s.srcOff.toNat + s.rd.toNat + 1 := by
    rw [State.readAddr, hrd, Nat.add_assoc, openRepeat_srcOff]
  exact congrArg s.srcByte haddr

/-- PB.REP after the first m of its 257 - c writes (42_packbits.md R189). -/
theorem exists_afterRun_pbRep {c : Byte} (hc : 0x81 ≤ c.toNat) (hm : m ≤ 257 - c.toNat)
    (input : s.rd.toNat + 1 < s.srcLen.toNat) (hchannel : s.srcOff.toNat + s.srcLen.toNat ≤ s.config.srcCap.val)
    (hbuffer : s.dstLen.toNat ≤ s.config.dstCap.val) (room : ∀ k, k < m → s.wr.toNat + 4 * k < s.dstLen.toNat) :
    ∃ u, AfterRun (withRepeatValue c s) (fun _ => s.srcByte (s.srcOff.toNat + s.rd.toNat + 1)) 0 m u ∧
      exec (.pbRep c) s = runEngine packetEnded (128 - m) u := by
  have hrd : (openRepeat c s).rd.toNat = s.rd.toNat + 1 := rd_add_one_toNat (Nat.lt_of_succ_lt input)
  have hcnt : (withRepeatValue c s).cnt.toNat = 257 - c.toNat := repeatCount_toNat hc
  have hinput : (openRepeat c s).rd.toNat < (openRepeat c s).srcLen.toNat := hrd ▸ input
  have hfetch : Moves (openRepeat c s) (withRepeatValue c s) :=
    .fetchValue rfl hinput (readAddr_lt hchannel hinput)
  obtain ⟨u, hu, hrun⟩ := exists_afterRun_repeat (s := withRepeatValue c s) (m := m) rfl (by omega) (by omega) hbuffer
    room
  rw [repv_withRepeatValue c (Nat.lt_of_succ_lt input)] at hu
  have hbudget : 128 - m + m = 128 := by omega
  refine ⟨u, hu, ?_⟩
  calc exec (.pbRep c) s = runEngine packetEnded 129 (openRepeat c s) := rfl
    _ = runEngine packetEnded 128 (withRepeatValue c s) := runEngine_succ rfl hfetch
    _ = runEngine packetEnded (128 - m + m) (withRepeatValue c s) := by rw [hbudget]
    _ = runEngine packetEnded (128 - m) u := hrun _

/-- Settles O48: after its 257 - c writes the run is over, and the packet with it. -/
theorem pbRepWritesItsValue : Obligations.PbRepWritesItsValue := by
  intro c s hc hinput hchannel hroom hbuffer
  have hcnt : (withRepeatValue c s).cnt.toNat = 257 - c.toNat := repeatCount_toNat hc
  obtain ⟨u, hu, hexec⟩ := exists_afterRun_pbRep hc (Nat.le_refl _) hinput hchannel hbuffer fun k hk => by omega
  have hend : u.fsm = .awaitCtrl := hu.ended hcnt.symm
  obtain ⟨hwritten, hkept⟩ := hu.bytes
  refine ⟨u, hexec.trans (runEngine_stop (by rw [hend]; rfl)), hwritten, hkept, ?_, hu.wr, hu.ctrl, ?_, ?_, hend,
    hu.cmd, hu.status, hu.surroundings⟩
  · rw [hu.rd, rd_withRepeatValue c hinput, Nat.zero_mul]
  · exact BitVec.eq_of_toNat_eq (by rw [hu.cnt, hcnt, Nat.sub_self]; rfl)
  · exact hu.repv.trans (repv_withRepeatValue c (Nat.lt_of_succ_lt hinput))

/-- Settles O49: the value's micro-step finds no input, or the write after the first j finds no room. -/
theorem pbRepShortages : Obligations.PbRepShortages := by
  intro c s hc hchannel hbuffer _
  refine ⟨fun hlast => ?_, fun j hinput hj hroom hfull => ?_⟩
  · have hrd : (openRepeat c s).rd.toNat = s.srcLen.toNat := (rd_add_one_toNat (by omega)).trans hlast
    have hmove : Moves (openRepeat c s) (raiseError .truncatedInput (openRepeat c s)) :=
      .fetchShort rfl (Nat.not_lt.2 hrd.ge)
    exact ⟨_, runEngine_of_error (n := 129) (by decide) rfl hmove rfl, BitVec.eq_of_toNat_eq hrd, rfl, rfl, rfl, rfl,
      rfl, rfl, ⟨rfl, rfl, rfl, rfl, rfl, rfl, rfl, rfl, rfl⟩⟩
  · have hcnt : (withRepeatValue c s).cnt.toNat = 257 - c.toNat := repeatCount_toNat hc
    obtain ⟨u, hu, hexec⟩ := exists_afterRun_pbRep hc hj.le hinput hchannel hbuffer hroom
    have hrep : u.fsm = .repEmit := hu.running (hcnt ▸ hj)
    obtain ⟨hwritten, hkept⟩ := hu.bytes
    have hmove : Moves u (raiseError .bufferTooSmall u) := .repFull hrep (mt hu.room_iff.1 (Nat.not_lt.2 hfull))
    have hbudget : 0 < 128 - j := by omega
    refine ⟨_, hexec.trans (runEngine_of_error hbudget (by simp [hrep, isCounting]) hmove rfl), hwritten, hkept, ?_,
      hu.wr, rfl, rfl, hu.cmd, hu.repv.trans (repv_withRepeatValue c (Nat.lt_of_succ_lt hinput)), hu.surroundings⟩
    rw [raiseError_rd, hu.rd, rd_withRepeatValue c hinput, Nat.zero_mul]

end Sys2Proof.Machine
end


/-! SUPPORT. UNPACK.PB's end where its channel ends at a packet boundary. -/
section
namespace Sys2Proof.Machine

/-- A stream that ends at a packet boundary succeeds where there is room for all of its output bytes
(42_packbits.md R192). -/
theorem channelStatus_of_fits {o : Output} {slot length : Nat} (ho : o.truncated = false)
    (hfit : o.writes.length ≤ roomFor slot length) : channelStatus o slot length = .succeeded := by
  rw [channelStatus, if_neg (Nat.not_lt.2 hfit), ho]
  rfl

/-- An output byte without room fails the command, wherever the stream ends (42_packbits.md R195). -/
theorem channelStatus_of_short {o : Output} {slot length : Nat} (hshort : roomFor slot length < o.writes.length) :
    channelStatus o slot length = .failed .bufferTooSmall :=
  if_pos hshort

/-- There is room for all output bytes exactly where the last one's position is below the length. -/
theorem le_roomFor_iff {slot length n : Nat} (hslot : slot < 4) :
    n ≤ roomFor slot length ↔ n = 0 ∨ slot + 4 * (n - 1) < length := by
  unfold roomFor
  omega

/-- Settles O35: the end of the channel's output, with its status by whether there is room for all of it. -/
theorem completeStreamSucceedsExactlyWhenItFits : Obligations.CompleteStreamSucceedsExactlyWhenItFits := by
  intro slot s hb hbuffer hchannel hcomplete
  obtain ⟨t, hexec, ⟨hbytes, hstatus, hrd, hwr⟩, -⟩ :=
    channelCommandsWriteTheirOutput (.unpackPb slot) .packBits s rfl hb hbuffer hchannel
  refine ⟨t, hexec, ?_⟩
  generalize channelOutput .packBits s.channelBytes = o at *
  have hfits : o.writes.length ≤ roomFor slot.toNat s.dstLen.toNat ↔ _ := le_roomFor_iff slot.isLt
  simp only [List.length_map, List.getElem?_map, slotOf] at *
  by_cases hfit : o.writes.length ≤ roomFor slot.toNat s.dstLen.toNat
  · rw [channelStatus_of_fits hcomplete hfit] at hstatus
    have hcount : writtenCount o slot.toNat s.dstLen.toNat = o.writes.length := Nat.min_eq_left hfit
    rw [hcount] at hbytes hwr
    rw [hstatus]
    refine ⟨iff_of_true rfl (hfits.1 hfit), fun _ => ⟨fun k hk => ?_, fun a ha => ?_, ?_, hwr⟩, nofun⟩
    · have hw := List.getElem?_eq_getElem hk
      rw [hbytes, afterWrites_at hk hw, hw]
      rfl
    · rw [hbytes, afterWrites_other ha]
    · refine BitVec.eq_of_toNat_eq (hrd.trans ?_)
      rw [channelRd, List.getElem?_eq_none hfit]
  · rw [channelStatus_of_short (Nat.lt_of_not_le hfit)] at hstatus
    have hcount : writtenCount o slot.toNat s.dstLen.toNat = roomFor slot.toNat s.dstLen.toNat :=
      Nat.min_eq_right (Nat.le_of_not_le hfit)
    rw [hcount] at hwr
    obtain ⟨hleast, hbelow⟩ := roomFor_eq_iff.1 (rfl : roomFor slot.toNat s.dstLen.toNat = _)
    rw [hstatus]
    exact ⟨iff_of_false nofun (mt hfits.2 hfit), nofun, fun _ => ⟨rfl, rfl, _, hwr, hleast, hbelow⟩⟩

end Sys2Proof.Machine
end


/-! SUPPORT. DISPATCH routes to a command that starts alike (43_dispatcher.md R220), and a run looks at CMD's FILLV field
alone, which is 0 in both words. -/
section
namespace Sys2Proof.Machine

variable {s t : State} {w : Word}

/-! ### A run with another word in CMD -/

/-- A state with another word in CMD. -/
def State.withCmd (s : State) (w : Word) : State := { s with cmd := w }

theorem openPacket_withCmd (i : Instr) (s : State) (w : Word) :
    openPacket i (s.withCmd w) = (openPacket i s).withCmd w := by
  cases i <;> rfl

/-- The engine looks at CMD for FILL's byte alone: with any word of the same FILLV it makes the same move
(40_command_interface.md R146). -/
theorem moves_withCmd (h : Moves s t) (hv : fillvField w = fillvField s.cmd) : Moves (s.withCmd w) (t.withCmd w) := by
  cases h with
  | idle hf => exact .idle hf
  | fillByte hf room inside => exact hv ▸ .fillByte (s := s.withCmd w) hf room inside
  | fillEnd hf full => exact .fillEnd hf full
  | rawByte hf input readable room inside => exact .rawByte hf input readable room inside
  | rawFull hf input readable full => exact .rawFull hf input readable full
  | rawEnd hf out => exact .rawEnd hf out
  | control hf input readable => exact openPacket_withCmd _ s w ▸ .control hf input readable
  | streamEnd hf out => exact .streamEnd hf out
  | noop hf => exact .noop hf
  | litByte hf input readable room inside => exact .litByte hf input readable room inside
  | litFull hf input readable full => exact .litFull hf input readable full
  | litShort hf out => exact .litShort hf out
  | fetchValue hf input readable => exact .fetchValue hf input readable
  | fetchShort hf out => exact .fetchShort hf out
  | repByte hf room inside => exact .repByte hf room inside
  | repFull hf full => exact .repFull hf full

/-- CMD keeps its word along a run, so the whole run is the same with any word of the same FILLV. -/
theorem runEngine_withCmd {stop : Fsm → Bool} {n : Nat} (h : runEngine stop n s = .next t)
    (hv : fillvField w = fillvField s.cmd) : runEngine stop n (s.withCmd w) = .next (t.withCmd w) := by
  induction n generalizing s with
  | zero => cases h; rfl
  | succ n ih =>
    cases hstop : stop s.fsm with
    | true => cases (runEngine_stop hstop).symm.trans h; exact runEngine_stop hstop
    | false =>
      simp only [runEngine, hstop] at h
      obtain ⟨u, hu, hrest⟩ := andThen_eq_next.1 h
      have hm := microStep_moves hu
      exact (runEngine_succ (s := s.withCmd w) hstop (moves_withCmd hm hv)).trans (ih hrest (moves_cmd hm ▸ hv))

/-! ### The routed command -/

/-- The command that DISPATCH routes to (43_dispatcher.md R220). -/
def routedCommand (slot : Slot) : Mode → Instr
  | .raw => .unpackRaw slot
  | .packBits => .unpackPb slot

theorem routedCommand_format (slot : Slot) (m : Mode) : (routedCommand slot m).format = .cmd32 := by
  cases m <;> rfl

/-- FILLV is 0 in the words of both commands (30_encoding.md R91, R92). -/
theorem fillvField_dispatch (slot : Slot) (m : Mode) :
    fillvField (commandWord (.dispatch slot m)) = fillvField (commandWord (routedCommand slot m)) := by
  revert slot
  cases m <;> decide

theorem rangesOk_dispatch (slot : Slot) (m : Mode) (s : State) :
    s.rangesOk (.dispatch slot m) = s.rangesOk (routedCommand slot m) := by
  cases m <;> rfl

theorem startCommand_dispatch (slot : Slot) (m : Mode) :
    startCommand (.dispatch slot m) = startCommand (routedCommand slot m) := by
  cases m <;> rfl

/-- DISPATCH is accepted or rejected as the command it routes to (40_command_interface.md R134, R135). -/
theorem acceptCommand_dispatch (slot : Slot) (m : Mode) (s : State) :
    acceptCommand (commandWord (.dispatch slot m)) s =
      (acceptCommand (commandWord (routedCommand slot m)) s).withCmd (commandWord (.dispatch slot m)) := by
  have hranges := rangesOk_dispatch slot m s
  cases hr : s.rangesOk (routedCommand slot m) with
  | true =>
    rw [acceptCommand_of_rangesOk rfl (hranges.trans hr), acceptCommand_of_rangesOk (routedCommand_format slot m) hr,
      startCommand_dispatch]
    rfl
  | false =>
    rw [acceptCommand_of_not_rangesOk rfl (hranges.trans hr),
      acceptCommand_of_not_rangesOk (routedCommand_format slot m) hr]
    rfl

/-- An accepted CMD write keeps its word (40_command_interface.md R135). -/
theorem acceptCommand_cmd (w : Word) (s : State) : (acceptCommand w s).cmd = w := by
  obtain ⟨i, -, -, he⟩ | ⟨-, he⟩ := acceptCommand_cases w s <;> rw [he] <;> rfl

/-- DISPATCH's run is the run of the command it routes to, with its own word in CMD (43_dispatcher.md R221). -/
theorem runCommand_dispatch {slot : Slot} {m : Mode} (hb : s.status.busy = false)
    (h : runCommand (routedCommand slot m) s = .next t) :
    runCommand (.dispatch slot m) s = .next (t.withCmd (dispatchWord slot m)) := by
  rw [runCommand_of_not_busy _ hb] at h ⊢
  rw [acceptCommand_dispatch]
  exact runEngine_withCmd h (by rw [acceptCommand_cmd, fillvField_dispatch])

theorem exec_dispatch_eq_exec_routed (slot : Slot) (m : Mode) (hb : s.status.busy = false) (hf : s.fsm = .idle) :
    ∃ t, exec (routedCommand slot m) s = .next t ∧
      exec (.dispatch slot m) s = .next (t.withCmd (dispatchWord slot m)) := by
  obtain ⟨t, ht⟩ := runCommand_of_idle (routedCommand slot m) fun _ => hf
  exact ⟨t, (exec_command (routedCommand_format slot m) s).trans ht, runCommand_dispatch hb ht⟩

/-- Settles O37, by the mode: DISPATCH's run is the routed command's with the other word in CMD. -/
theorem dispatchEqualsTheRoutedCommand : Obligations.DispatchEqualsTheRoutedCommand := fun slot _ hb hf =>
  ⟨exec_dispatch_eq_exec_routed slot .raw hb hf, exec_dispatch_eq_exec_routed slot .packBits hb hf⟩

end Sys2Proof.Machine
end


/-! SUPPORT. Pseudo-commands on the agenda: what they expand to, their look at STATUS, and where they stop. -/
section
namespace Sys2Proof.Machine

variable {s : State}

/-! ### The slot and the outcome -/

/-- In a buffer of whole pixels every slot has room for as many bytes as there are pixels (44_compositor.md R243). -/
theorem roomFor_pixels {slot : Nat} (hslot : slot < 4) (n : Nat) : roomFor slot (4 * n) = n := by
  unfold roomFor
  omega

theorem channelStatus_pixels {slot : Nat} (hslot : slot < 4) (o : Output) (n : Nat) :
    channelStatus o slot (4 * n) = channelStatus o 0 (4 * n) := by
  simp only [channelStatus, roomFor_pixels hslot, roomFor_pixels (show 0 < 4 by decide)]

/-- Settles O44: the slot enters a command's STATUS by the room it has alone, which is n in every slot. -/
theorem slotDoesNotChangeTheOutcome : Obligations.SlotDoesNotChangeTheOutcome := by
  intro i j m n s hi hj hb hlen hbuffer hchannel
  obtain ⟨t, ht, ⟨-, hstatus, -⟩, -⟩ := channelCommandsWriteTheirOutput i m s hi hb hbuffer hchannel
  obtain ⟨u, hu, ⟨-, hstatus', -⟩, -⟩ := channelCommandsWriteTheirOutput j m s hj hb hbuffer hchannel
  refine ⟨t, u, ht, hu, ?_⟩
  rw [hstatus, hstatus', hlen, channelStatus_pixels (slotOf_lt_four i), channelStatus_pixels (slotOf_lt_four j)]

/-! ### The expansion -/

/-- A pseudo-command's turn puts its sequence in its place (44_compositor.md R236). -/
theorem step_call {c : Call} {rest : List Turn} (hs : s.agenda = .call c :: rest) :
    step s = .next { s with agenda := expandCall s.config.srcCap.val c ++ rest } :=
  step_of_turn hs

/-- Settles O56: each call's own sequence, with the appended parts in one row. -/
theorem pseudoCommandsExpand : Obligations.PseudoCommandsExpand := by
  intro s rest n r g b a
  refine ⟨fun hs => ?_, fun hs => ?_, fun hs => ?_, fun hs => ?_⟩ <;>
    simp [step_call hs, expandCall, callSlices, callChannels, callPixels, callFill, sizeStep, fillSteps, channelSteps]

/-! ### The look at STATUS -/

/-- An aborted call drops the agenda up to its own return (44_compositor.md R241). -/
theorem dropCall_append {steps : List Turn} (h : ∀ m, .returnOk m ∉ steps) (n : Nat) (rest : List Turn) :
    dropCall (steps ++ .returnOk n :: rest) = rest := by
  induction steps with
  | nil => rfl
  | cons turn steps ih =>
    have hrest := ih fun m hm => h m (.tail _ hm)
    cases turn with
    | returnOk m => exact absurd (.head _) (h m)
    | _ => exact hrest

theorem step_stopOnErr_of_err {turns : List Turn} (hs : s.agenda = .stopOnErr :: turns) (herr : s.status.err = true) :
    step s = .next { s with
      agenda := dropCall turns, received := s.received ++ [.error s.status.errcode] } :=
  (step_of_turn hs).trans (congrArg _ (if_pos herr))

theorem step_stopOnErr_of_no_err {turns : List Turn} (hs : s.agenda = .stopOnErr :: turns)
    (herr : s.status.err = false) : step s = .next { s with agenda := turns } :=
  (step_of_turn hs).trans (congrArg _ (if_neg (by simp [herr])))

/-- Settles O57: the look at STATUS by its two cases; the dropped steps end with the call's own return. -/
theorem pseudoCommandAborts : Obligations.PseudoCommandAborts := by
  intro s steps rest n hsteps hs
  refine ⟨fun herr => ?_, step_stopOnErr_of_no_err hs⟩
  rw [step_stopOnErr_of_err hs herr, dropCall_append hsteps]

end Sys2Proof.Machine
end


/-! SUPPORT. A pseudo-command's run up to its first look at STATUS: its Place steps, Size and the fill. -/
section
namespace Sys2Proof.Machine

variable {s t : State} {turns rest : List Turn}

/-! ### Runs of any length -/

/-- Some number of steps lead from the first state to the second. -/
abbrev Reaches : State → State → Prop := Relation.ReflTransGen fun s t => step s = .next t

theorem exists_run_of_reaches (h : Reaches s t) : ∃ n, Host.Core.run Sys2Proof.core n s = .next t := by
  induction h using Relation.ReflTransGen.head_induction_on with
  | refl => exact ⟨0, rfl⟩
  | head hstep _ ih =>
    obtain ⟨n, hn⟩ := ih
    exact ⟨n + 1, (run_succ_of_step hstep).trans hn⟩

theorem step_wait (hs : s.agenda = .wait :: turns) (hb : s.status.busy = false) :
    step s = .next { s with agenda := turns } :=
  (step_of_turn hs).trans (if_neg (by simp [hb]))

/-- A command run whole, and the WAIT after it, lead to the look at STATUS (44_compositor.md R236, log 6). -/
theorem reaches_stopOnErr {i : Instr} (hi : i.format = .cmd32) (hb : s.status.busy = false)
    (hs : s.agenda = .command (commandWord i) :: .wait :: turns)
    (hrun : runCommand i { s with agenda := .wait :: turns } = .next t) (ht : t.status.busy = false) :
    Reaches s { t with agenda := turns } := by
  have hcommand : step s = .next t := by
    rw [step_of_turn hs]
    simpa [takeTurn, hostCommand, decode, decodeCommand_commandWord hi, hb, exec_command hi] using hrun
  obtain ⟨-, -, -, -, -, -, -, hagenda, -⟩ := runCommand_surroundings hrun
  exact .head hcommand (.single (step_wait hagenda.symm ht))

theorem sameSurroundings_withAgenda (h : s.sameSurroundings t) (turns : List Turn) :
    State.sameSurroundings { s with agenda := turns } { t with agenda := turns } := by
  obtain ⟨hconfig, hoff, hsrcLen, hdstLen, hsrc, hepoch, hdraws, -, hreceived⟩ := h
  exact ⟨hconfig, hoff, hsrcLen, hdstLen, hsrc, hepoch, hdraws, rfl, hreceived⟩

/-! ### Place (44_compositor.md R236) -/

theorem bytesOfWord_setWidth (b : Byte) : bytesOfWord (b.setWidth 32) 1 = [b] := by
  simp only [bytesOfWord, List.cons.injEq, and_true]
  exact BitVec.eq_of_getLsbD_eq fun i hi => by simp [hi, hi.trans (show 8 < 32 by decide)]

/-- One byte of a slice is placed. -/
theorem step_placeByte {a : Nat} {b : Byte} (hs : s.agenda = .writeRam .src a 1 (b.setWidth 32) :: turns)
    (hb : s.status.busy = false) (hin : a < s.config.srcCap.val) :
    step s = .next { s with src := s.src.write a b, agenda := turns } := by
  refine (step_of_turn hs).trans (hostWriteRam_eq_next.2
    ⟨ramAccessOk_of (.inl rfl) (Nat.mod_one a), hin, hb, ?_⟩)
  rw [bytesOfWord_setWidth]
  rfl

/-- SRC after a slice is placed, as far as it lies inside SRC (log 12). -/
def placedSlice (cap : Nat) (m : Memory) (c : Channel) : Memory :=
  m.writeBytes c.offset (c.bytes.take (cap - c.offset))

theorem reaches_placeBytes (a : Nat) (bs : List Byte) (hb : s.status.busy = false)
    (hs : s.agenda = placeBytes s.config.srcCap.val a bs ++ turns) :
    Reaches s { s with src := s.src.writeBytes a (bs.take (s.config.srcCap.val - a)), agenda := turns } := by
  induction bs generalizing s a with
  | nil =>
    cases hs
    rw [List.take_nil]
    exact .refl
  | cons b bs ih =>
    by_cases hin : a < s.config.srcCap.val
    · have hlater : s.config.srcCap.val - a = s.config.srcCap.val - (a + 1) + 1 := by omega
      rw [placeBytes, if_pos hin] at hs
      rw [hlater, List.take_succ_cons]
      exact .head (step_placeByte hs hb hin) (ih (a + 1) hb rfl)
    · have hnone : s.config.srcCap.val - a = 0 := by omega
      have hnone' : s.config.srcCap.val - (a + 1) = 0 := by omega
      rw [placeBytes, if_neg hin] at hs
      have hrest := ih (a + 1) hb hs
      rw [hnone', List.take_zero] at hrest
      rwa [hnone, List.take_zero]

theorem reaches_placed (slices : List Channel) (hb : s.status.busy = false)
    (hs : s.agenda = slices.flatMap (placeChannel s.config.srcCap.val) ++ turns) :
    Reaches s { s with src := slices.foldl (placedSlice s.config.srcCap.val) s.src, agenda := turns } := by
  induction slices generalizing s with
  | nil =>
    cases hs
    exact .refl
  | cons c slices ih =>
    rw [List.flatMap_cons, List.append_assoc] at hs
    exact .trans (reaches_placeBytes c.offset c.bytes hb hs) (ih hb rfl)

/-- A byte that is placed, and on which all later slices that cover it agree, stands in SRC. -/
theorem get?_placed {cap a : Nat} {v : Byte} (slices : List Channel) {m : Memory}
    (hfit : ∀ c ∈ slices, c.offset + c.bytes.length ≤ cap)
    (hagree : ∀ c ∈ slices, c.offset ≤ a → a < c.offset + c.bytes.length → c.bytes[a - c.offset]? = some v)
    (hplaced : m.get? a = some v ∨ ∃ c ∈ slices, c.offset ≤ a ∧ a < c.offset + c.bytes.length) :
    (slices.foldl (placedSlice cap) m).get? a = some v := by
  induction slices generalizing m with
  | nil => simpa using hplaced
  | cons c slices ih =>
    have hwhole : c.bytes.take (cap - c.offset) = c.bytes :=
      List.take_of_length_le (by have := hfit c (.head _); omega)
    have hbyte := Memory.get?_writeBytes m c.offset a c.bytes
    refine ih (fun d hd => hfit d (.tail _ hd)) (fun d hd => hagree d (.tail _ hd)) ?_
    rw [placedSlice, hwhole, hbyte]
    by_cases hcovers : c.offset ≤ a ∧ a < c.offset + c.bytes.length
    · exact .inl ((if_pos hcovers).trans (hagree c (.head _) hcovers.1 hcovers.2))
    · rw [if_neg hcovers]
      obtain hm | ⟨d, hd, hcovers'⟩ := hplaced
      · exact .inl hm
      · obtain _ | ⟨_, hd⟩ := hd
        · exact absurd hcovers' hcovers
        · exact .inr ⟨d, hd, hcovers'⟩

/-- Slices that fit SRC and agree where they overlap all stand in SRC once they are placed (44_compositor.md R236). -/
theorem holds_of_placed {slices : List Channel} (hsrc : t.src = slices.foldl (placedSlice t.config.srcCap.val) s.src)
    (hfit : ∀ x ∈ slices, x.offset + x.bytes.length ≤ t.config.srcCap.val)
    (hagree : ∀ x ∈ slices, ∀ y ∈ slices, ∀ i j, i < x.bytes.length → j < y.bytes.length →
      x.offset + i = y.offset + j → x.bytes[i]? = y.bytes[j]?) : ∀ c ∈ slices, t.holds c := by
  intro c hc
  refine ⟨hfit c hc, List.ext_getElem? fun k => ?_⟩
  rw [ramBytes_getElem?]
  by_cases hk : k < c.bytes.length
  · have hbyte : t.src.get? (c.offset + k) = some c.bytes[k] := by
      rw [hsrc]
      refine get?_placed slices hfit (fun d hd hle hlt => ?_) (.inr ⟨c, hc, by omega, by omega⟩)
      rw [hagree d hd c hc _ k (by omega) hk (by omega), List.getElem?_eq_getElem hk]
    rw [if_pos hk, List.getElem?_eq_getElem hk, State.ramByte, State.srcByte, hbyte]
    rfl
  · rw [if_neg hk, List.getElem?_eq_none (Nat.not_lt.1 hk)]

/-! ### Size and the fill -/

/-- A number goes to its register as it is, up to the largest word (44_compositor.md R236, log 12). -/
theorem wordOfNat_toNat (n : Nat) : (wordOfNat n).toNat = min n (2 ^ 32 - 1) :=
  (BitVec.toNat_ofNat _ _).trans (Nat.mod_eq_of_lt (by omega))

/-- A number within a RAM's capacity fits its register. -/
theorem wordOfNat_toNat_of_le {n : Nat} {cap : Capacity} (h : n ≤ cap.val) : (wordOfNat n).toNat = n := by
  have := cap.property
  rw [wordOfNat_toNat]
  omega

theorem step_writeDstLen {v : Word} (hs : s.agenda = .writeReg 0x10 4 v :: turns) (hb : s.status.busy = false) :
    step s = .next { s with dstLen := v, agenda := turns } :=
  (step_writeReg hs (r := .dstLen) rfl).trans (congrArg _ (if_neg (by simp [hb])))

theorem step_writeSrcOff {v : Word} (hs : s.agenda = .writeReg 0x08 4 v :: turns) (hb : s.status.busy = false) :
    step s = .next { s with srcOff := v, agenda := turns } :=
  (step_writeReg hs (r := .srcOff) rfl).trans (congrArg _ (if_neg (by simp [hb])))

theorem step_writeSrcLen {v : Word} (hs : s.agenda = .writeReg 0x0C 4 v :: turns) (hb : s.status.busy = false) :
    step s = .next { s with srcLen := v, agenda := turns } :=
  (step_writeReg hs (r := .srcLen) rfl).trans (congrArg _ (if_neg (by simp [hb])))

/-- What a pseudo-command has on the agenda after its fill: its channel steps and its return. -/
def channelTurns (chans : List (Slot × Channel)) (length : Nat) (rest : List Turn) : List Turn :=
  chans.flatMap (fun p => channelSteps p.1 p.2) ++ .returnOk length :: rest

/-- An error drops the channel steps that are left, and the return with them (44_compositor.md R241). -/
theorem dropCall_channelTurns (chans : List (Slot × Channel)) (length : Nat) (rest : List Turn) :
    dropCall (channelTurns chans length rest) = rest :=
  dropCall_append (by simp [channelSteps]) length rest

/-- The state of a call that is about to fill its buffer. -/
def State.sized (s : State) (c : Call) (rest : List Turn) : State :=
  { s with
    src := (callSlices c).foldl (placedSlice s.config.srcCap.val) s.src
    dstLen := wordOfNat (4 * callPixels c)
    agenda := fillSteps (callFill c) ++ channelTurns (callChannels c) (4 * callPixels c) rest }

/-- Place and Size of a call begun while BUSY = 0 (44_compositor.md R236). -/
theorem reaches_sized {c : Call} (hs : s.agenda = .call c :: rest) (hb : s.status.busy = false) :
    Reaches s (s.sized c rest) := by
  have hexpand : expandCall s.config.srcCap.val c ++ rest =
      (callSlices c).flatMap (placeChannel s.config.srcCap.val) ++ .writeReg 0x10 4 (wordOfNat (4 * callPixels c)) ::
        (fillSteps (callFill c) ++ channelTurns (callChannels c) (4 * callPixels c) rest) := by
    simp [expandCall, sizeStep, channelTurns]
  exact .head (step_call hs) (.tail (reaches_placed (callSlices c) hb hexpand) (step_writeDstLen rfl hb))

/-- Settles O59: DST_LEN takes a number above DST_CAP, so the fill is rejected, and the look at STATUS ends the call. -/
theorem tooLargeCallReturnsIllegalCommand : Obligations.TooLargeCallReturnsIllegalCommand := by
  intro s c rest hb hf hs hlarge
  have hranges : State.rangesOk (.fill (callFill c)) (s.sized c rest) = false := by
    have hcap := s.config.dstCap.property
    have hlen : s.config.dstCap.val < (wordOfNat (4 * callPixels c)).toNat := by
      rw [wordOfNat_toNat]
      omega
    exact Bool.eq_false_iff.2 (mt (bufferFits_iff (s.sized c rest)).1 (Nat.not_le.2 hlen))
  have hlook := reaches_stopOnErr (i := .fill (callFill c)) rfl (s := s.sized c rest) hb rfl
    (runCommand_of_not_rangesOk rfl hb hf hranges) hb
  obtain ⟨n, hn⟩ := exists_run_of_reaches (.tail (.trans (reaches_sized hs hb) hlook) (step_stopOnErr_of_err rfl rfl))
  exact ⟨n, _, hn, dropCall_channelTurns _ _ rest, rfl⟩

/-- The fill of a call whose buffer fits DST ends with success and leads on to its channel steps
(44_compositor.md R244). -/
theorem reaches_filled {c : Call} (hb : s.status.busy = false) (hfit : 4 * callPixels c ≤ s.config.dstCap.val) :
    ∃ t, Reaches (s.sized c rest) t ∧ t.status.busy = false ∧
      State.sameSurroundings { s.sized c rest with agenda := channelTurns (callChannels c) (4 * callPixels c) rest } t ∧
      ∀ a, a < 4 * callPixels c → t.dstByte a = callFill c := by
  have hlen : (s.sized c rest).dstLen.toNat = 4 * callPixels c := wordOfNat_toNat_of_le hfit
  obtain ⟨t, hrun, hfill, hidle⟩ := exists_fillRun (v := callFill c)
    (s := { s.sized c rest with
      agenda := .wait :: .stopOnErr :: channelTurns (callChannels c) (4 * callPixels c) rest })
    hb (hlen.trans_le hfit)
  obtain ⟨hf, -⟩ | ⟨-, hstatus, hwr⟩ := hfill.engine
  · cases hf.symm.trans hidle
  have hbusy : t.status.busy = false := by rw [hstatus]; rfl
  have herr : t.status.err = false := by rw [hstatus]; rfl
  have hlook := reaches_stopOnErr (s := s.sized c rest) (i := .fill (callFill c)) rfl hb rfl hrun hbusy
  refine ⟨_, .tail hlook (step_stopOnErr_of_no_err rfl herr), hbusy,
    sameSurroundings_withAgenda (runCommand_surroundings hrun) _, fun a ha => ?_⟩
  refine (hfill.bytes a).trans (if_pos ?_)
  rw [hwr]
  exact ha.trans_eq hlen.symm

end Sys2Proof.Machine
end


/-! SUPPORT. A channel step of a pseudo-command: its slice becomes the current channel and its command is run. -/
section
namespace Sys2Proof.Machine

variable {s t : State} {turns rest : List Turn}

/-! ### A channel step -/

theorem channelStatus_busy (o : Output) (slot length : Nat) : (channelStatus o slot length).busy = false := by
  unfold channelStatus
  split_ifs <;> rfl

/-- A channel that succeeds has all of its output bytes written (42_packbits.md R192). -/
theorem writtenCount_of_no_err {o : Output} {slot length : Nat} (h : (channelStatus o slot length).err = false) :
    writtenCount o slot length = o.writes.length := by
  refine Nat.min_eq_left (Nat.not_lt.1 fun hshort => ?_)
  rw [channelStatus_of_short hshort] at h
  cases h

theorem holds_congr {c : Channel} (hconfig : t.config = s.config) (hsrc : t.src = s.src)
    (hepoch : t.ramEpoch = s.ramEpoch) (h : s.holds c) : t.holds c := by
  obtain ⟨hfit, hbytes⟩ := h
  refine ⟨hconfig ▸ hfit, Eq.trans (List.ext_getElem? fun k => ?_) hbytes⟩
  simp only [ramBytes_getElem?, State.ramByte, State.srcByte, hsrc, hepoch]

/-- The state of a channel step that is about to write its command: its slice is the current channel
(44_compositor.md R236). -/
def State.aimedAt (s : State) (c : Channel) (turns : List Turn) : State :=
  { s with srcOff := wordOfNat c.offset, srcLen := wordOfNat c.bytes.length, agenda := turns }

theorem aimedAt_lengths {c : Channel} (hfit : c.offset + c.bytes.length ≤ s.config.srcCap.val) (turns : List Turn) :
    (s.aimedAt c turns).srcOff.toNat = c.offset ∧ (s.aimedAt c turns).srcLen.toNat = c.bytes.length :=
  ⟨wordOfNat_toNat_of_le ((Nat.le_add_right _ _).trans hfit), wordOfNat_toNat_of_le ((Nat.le_add_left _ _).trans hfit)⟩

theorem channelBytes_aimedAt {c : Channel} (h : s.holds c) (turns : List Turn) :
    (s.aimedAt c turns).channelBytes = c.bytes := by
  obtain ⟨hfit, hbytes⟩ := holds_congr (s := s) (t := s.aimedAt c turns) rfl rfl rfl h
  obtain ⟨hoff, hlen⟩ := aimedAt_lengths (s := s) hfit turns
  rw [State.channelBytes, hoff, hlen, hbytes]

/-- A channel step whose slice is placed leads to its look at STATUS, with its channel's output in DST and its end in
STATUS (44_compositor.md R236, 43_dispatcher.md R220). -/
theorem reaches_channelStep {slot : Slot} {c : Channel} (hs : s.agenda = channelSteps slot c ++ turns)
    (hb : s.status.busy = false) (hbuffer : s.dstLen.toNat ≤ s.config.dstCap.val) (hholds : s.holds c) :
    ∃ t, Reaches s t ∧ (s.aimedAt c (.stopOnErr :: turns)).sameSurroundings t ∧
      t.status = channelStatus (channelOutput c.mode c.bytes) slot.toNat s.dstLen.toNat ∧
      t.dstByte = afterWrites (channelOutput c.mode c.bytes) slot.toNat
        (writtenCount (channelOutput c.mode c.bytes) slot.toNat s.dstLen.toNat) s.dstByte := by
  have hranges : (s.aimedAt c (.wait :: .stopOnErr :: turns)).rangesOk (.dispatch slot c.mode) = true := by
    obtain ⟨hoff, hlen⟩ := aimedAt_lengths hholds.1 (.wait :: .stopOnErr :: turns)
    exact (rangesOk_iff rfl).2 ⟨hbuffer, .inr (by rw [hoff, hlen]; exact hholds.1)⟩
  obtain ⟨t, hrun, -, hend⟩ :=
    exists_channelEnd (s := s.aimedAt c (.wait :: .stopOnErr :: turns)) (i := .dispatch slot c.mode) rfl hb hranges
  rw [channelBytes_aimedAt hholds] at hend
  obtain ⟨hbytes, hstatus, -, -⟩ := ChannelEnd.mk.inj hend
  have hbusy : t.status.busy = false := (congrArg Status.busy hstatus).trans (channelStatus_busy _ _ _)
  have haim : Reaches s (s.aimedAt c (.command (dispatchWord slot c.mode) :: .wait :: .stopOnErr :: turns)) :=
    .head (step_writeSrcOff hs hb) (.single (step_writeSrcLen rfl hb))
  have hlook : Reaches _ { t with agenda := .stopOnErr :: turns } :=
    reaches_stopOnErr (i := .dispatch slot c.mode)
      (s := s.aimedAt c (.command (dispatchWord slot c.mode) :: .wait :: .stopOnErr :: turns)) rfl hb rfl hrun hbusy
  exact ⟨_, haim.trans hlook, sameSurroundings_withAgenda (runCommand_surroundings hrun) _, hstatus, hbytes⟩

end Sys2Proof.Machine
end


/-! SUPPORT. A pseudo-command's channel steps in slot order, and what the whole run returns. -/
section
namespace Sys2Proof.Machine

variable {s t : State} {turns rest : List Turn}

/-! ### The bytes of a result (44_compositor.md R237 to R240) -/

/-- A channel's k-th output byte, or the byte that stands there where its output is shorter. -/
def Channel.byteAt (c : Channel) (fill : Byte) (k : Nat) : Byte :=
  ((channelOutput c.mode c.bytes).writes[k]?.map Prod.fst).getD fill

theorem resultByte_cons (fill : Byte) (p : Slot × Channel) (ps : List (Slot × Channel)) (a : Nat) :
    resultByte fill (p :: ps) a =
      if p.1.toNat = a % 4 then p.2.byteAt fill (a / 4) else resultByte fill ps a := by
  unfold resultByte
  by_cases hslot : p.1.toNat = a % 4
  · rw [List.find?_cons_of_pos (by simpa using hslot), if_pos hslot, Channel.byteAt]
    dsimp only
    cases (channelOutput p.2.mode p.2.bytes).writes[a / 4]? <;> rfl
  · rw [List.find?_cons_of_neg (by simpa using hslot), if_neg hslot]

/-- A byte whose slot no channel has keeps the fill value (44_compositor.md R244). -/
theorem resultByte_of_absent {chans : List (Slot × Channel)} {a : Nat} (h : ∀ p ∈ chans, p.1.toNat ≠ a % 4)
    (fill : Byte) : resultByte fill chans a = fill := by
  induction chans with
  | nil => rfl
  | cons p ps ih => rw [resultByte_cons, if_neg (h p (.head _)), ih fun q hq => h q (.tail _ hq)]

/-- What a channel's whole output leaves at an address (41_raw_unpacker.md R164, 42_packbits.md R192). -/
theorem afterWrites_whole {slot : Nat} (hslot : slot < 4) (c : Channel) (before : Nat → Byte) (a : Nat) :
    afterWrites (channelOutput c.mode c.bytes) slot (channelOutput c.mode c.bytes).writes.length before a =
      if slot = a % 4 then c.byteAt (before a) (a / 4) else before a := by
  unfold afterWrites Channel.byteAt
  by_cases ha : slot = a % 4
  · have hdiv : (a - slot) / 4 = a / 4 := by omega
    rw [if_pos ha, hdiv]
    by_cases hk : a / 4 < (channelOutput c.mode c.bytes).writes.length
    · rw [if_pos ⟨by omega, by omega, hk⟩, List.getElem?_eq_getElem hk]
      rfl
    · rw [if_neg (fun h => hk h.2.2), List.getElem?_eq_none (Nat.not_lt.1 hk)]
      rfl
  · rw [if_neg ha, if_neg (by omega)]

/-- One channel's whole output first, then the others': the result of all of them, whose slots are distinct. -/
theorem resultByte_afterWrites {p : Slot × Channel} {ps : List (Slot × Channel)} (hp : ∀ q ∈ ps, p.1 ≠ q.1)
    (before : Nat → Byte) (a : Nat) :
    resultByte (afterWrites (channelOutput p.2.mode p.2.bytes) p.1.toNat
      (channelOutput p.2.mode p.2.bytes).writes.length before a) ps a = resultByte (before a) (p :: ps) a := by
  rw [afterWrites_whole p.1.isLt, resultByte_cons]
  by_cases ha : p.1.toNat = a % 4
  · rw [if_pos ha, if_pos ha]
    exact resultByte_of_absent (fun q hq hqa => hp q hq (BitVec.eq_of_toNat_eq (ha.trans hqa.symm))) _
  · rw [if_neg ha, if_neg ha]

/-- What channel steps return from a DST that holds `before`, as `callResult` does from the fill
(44_compositor.md R241). -/
def channelsResult (length : Nat) (before : Nat → Byte) (chans : List (Slot × Channel)) : Received :=
  match firstError length chans with
  | some code => .error code
  | none => .ok ((List.range length).map fun a => resultByte (before a) chans a)

theorem channelsResult_callFill (c : Call) :
    channelsResult (4 * callPixels c) (fun _ => callFill c) (callChannels c) = callResult c := rfl

variable {length : Nat} {before : Nat → Byte} {p : Slot × Channel} {ps chans : List (Slot × Channel)}

/-- The result looks at DST below the length alone. -/
theorem channelsResult_congr {after : Nat → Byte} (h : ∀ a, a < length → before a = after a) :
    channelsResult length before chans = channelsResult length after chans := by
  unfold channelsResult
  have hbytes : (List.range length).map (fun a => resultByte (before a) chans a) =
      (List.range length).map fun a => resultByte (after a) chans a :=
    List.map_congr_left fun a ha => by rw [h a (List.mem_range.1 ha)]
  rw [hbytes]

theorem channelsResult_of_err
    (herr : (channelStatus (channelOutput p.2.mode p.2.bytes) p.1.toNat length).err = true) :
    channelsResult length before (p :: ps) =
      .error (channelStatus (channelOutput p.2.mode p.2.bytes) p.1.toNat length).errcode := by
  simp [channelsResult, firstError, herr]

theorem channelsResult_of_no_err (hp : ∀ q ∈ ps, p.1 ≠ q.1)
    (herr : (channelStatus (channelOutput p.2.mode p.2.bytes) p.1.toNat length).err = false) :
    channelsResult length (afterWrites (channelOutput p.2.mode p.2.bytes) p.1.toNat
      (writtenCount (channelOutput p.2.mode p.2.bytes) p.1.toNat length) before) ps =
      channelsResult length before (p :: ps) := by
  simp only [channelsResult, firstError, herr, writtenCount_of_no_err herr, resultByte_afterWrites hp]
  rfl

/-! ### The channel steps and the return -/

/-- A call's return reads DST below the length, which is exact while BUSY = 0 (44_compositor.md R235). -/
theorem step_returnOk (hs : s.agenda = .returnOk length :: rest) (hb : s.status.busy = false)
    (hfit : length ≤ s.config.dstCap.val) :
    step s = .next { s with
      agenda := rest, received := s.received ++ [.ok ((List.range length).map s.dstByte)] } := by
  have hbytes : s.ramBytes .dst 0 length = (List.range length).map s.dstByte := by
    refine List.ext_getElem? fun k => ?_
    rw [ramBytes_getElem?, List.getElem?_map]
    by_cases hk : k < length
    · rw [if_pos hk, List.getElem?_range hk, Nat.zero_add]
      rfl
    · rw [if_neg hk, List.getElem?_eq_none (by simpa using hk)]
      rfl
  have hinside : State.ramInside { s with agenda := rest } .dst 0 length = true :=
    decide_eq_true ((Nat.zero_add _).trans_le hfit)
  rw [step_of_turn hs]
  simp [takeTurn, hostReturnOk, hinside, hb, record, hbytes]

/-- Channel steps whose slices are placed and whose slots are distinct run to the call's end and return their result
(44_compositor.md R241). -/
theorem reaches_channelsResult (hs : s.agenda = channelTurns chans length rest) (hb : s.status.busy = false)
    (hlen : s.dstLen.toNat = length) (hfit : length ≤ s.config.dstCap.val) (hholds : ∀ p ∈ chans, s.holds p.2)
    (hslots : chans.Pairwise fun p q => p.1 ≠ q.1) :
    ∃ t, Reaches s t ∧ t.agenda = rest ∧ t.status.busy = false ∧
      t.received = s.received ++ [channelsResult length s.dstByte chans] := by
  induction chans generalizing s with
  | nil => exact ⟨_, .single (step_returnOk hs hb hfit), rfl, hb, rfl⟩
  | cons p ps ih =>
    have hagenda : s.agenda = channelSteps p.1 p.2 ++ channelTurns ps length rest := by
      rw [hs, channelTurns, List.flatMap_cons, List.append_assoc]
      rfl
    obtain ⟨hp, hps⟩ := List.pairwise_cons.1 hslots
    obtain ⟨t, hreach, ⟨hconfig, -, -, hdstLen, hsrc, hepoch, -, hlook, hreceived⟩, hstatus, hbytes⟩ :=
      reaches_channelStep hagenda hb (hlen.trans_le hfit) (hholds p (.head _))
    rw [hlen] at hstatus hbytes
    have hbusy : t.status.busy = false := (congrArg Status.busy hstatus).trans (channelStatus_busy _ _ _)
    cases herr : t.status.err with
    | true =>
      refine ⟨_, .tail hreach (step_stopOnErr_of_err hlook.symm herr), dropCall_channelTurns _ _ _, hbusy, ?_⟩
      rw [channelsResult_of_err (hstatus ▸ herr), ← hstatus, ← hreceived]
      rfl
    | false =>
      obtain ⟨u, hu, hrest, hub, hur⟩ := ih (s := { t with agenda := channelTurns ps length rest }) rfl hbusy
        (hdstLen ▸ hlen) (hconfig ▸ hfit)
        (fun q hq => holds_congr (s := s) hconfig.symm hsrc.symm hepoch.symm (hholds q (.tail _ hq))) hps
      refine ⟨u, .trans (.tail hreach (step_stopOnErr_of_no_err hlook.symm herr)) hu, hrest, hub, ?_⟩
      rw [hur, ← channelsResult_of_no_err hp (hstatus ▸ herr), ← hbytes, ← hreceived]
      rfl

/-! ### A whole pseudo-command -/

theorem callChannels_mem_callSlices (c : Call) : ∀ p ∈ callChannels c, p.2 ∈ callSlices c := by
  cases c <;> simp [callChannels, callSlices]

theorem callChannels_slots (c : Call) : (callChannels c).Pairwise fun p q => p.1 ≠ q.1 := by
  cases c <;> simp [callChannels]

/-- Settles O58: Place and Size, the fill, and the channel steps over it. -/
theorem pseudoCommandReturnsItsResult : Obligations.PseudoCommandReturnsItsResult := by
  intro s c rest hb hs hfit hslices hagree
  obtain ⟨t, hreach, hbusy, hsame, hfill⟩ := reaches_filled (rest := rest) hb hfit
  obtain ⟨hconfig, -, -, hdstLen, hsrc, hepoch, -, hagenda, hreceived⟩ := hsame
  have hholds : ∀ x ∈ callSlices c, t.holds x := fun x hx =>
    holds_congr (s := s.sized c rest) hconfig.symm hsrc.symm hepoch.symm
      (holds_of_placed (s := s) (t := s.sized c rest) rfl hslices hagree x hx)
  obtain ⟨u, hu, hrest, hub, hur⟩ := reaches_channelsResult hagenda.symm hbusy
    (hdstLen ▸ wordOfNat_toNat_of_le hfit) (hconfig ▸ hfit)
    (fun p hp => hholds p.2 (callChannels_mem_callSlices c p hp)) (callChannels_slots c)
  obtain ⟨n, hn⟩ := exists_run_of_reaches (.trans (reaches_sized hs hb) (.trans hreach hu))
  refine ⟨n, u, hn, hrest, hub, ?_⟩
  rw [hur, ← hreceived, channelsResult_congr hfill, channelsResult_callFill]
  rfl

end Sys2Proof.Machine
end


/-! SUPPORT. What the result of a pseudo-command shows of alpha and of a grayscale colour (44_compositor.md R245). -/
section
namespace Sys2Proof.Machine

/-! ### What a result shows -/

/-- The bytes of an ok result (44_compositor.md R237 to R240). -/
theorem bytes_of_callResult {c : Call} {bytes : List Byte} (h : callResult c = .ok bytes) :
    bytes = (List.range (4 * callPixels c)).map (resultByte (callFill c) (callChannels c)) := by
  unfold callResult at h
  split at h <;> cases h
  rfl

theorem getElem?_of_callResult {c : Call} {bytes : List Byte} (h : callResult c = .ok bytes) {a : Nat}
    (ha : a < 4 * callPixels c) : bytes[a]? = some (resultByte (callFill c) (callChannels c) a) := by
  rw [bytes_of_callResult h, List.getElem?_map, List.getElem?_range ha]
  rfl

/-- One colour channel in slots 0, 1 and 2 gives the same byte in each of them (44_compositor.md R239, R240). -/
theorem resultByte_gray (fill : Byte) (x : Channel) (ps : List (Slot × Channel)) (k : Nat) {slot : Nat}
    (hslot : slot < 3) : resultByte fill ((0, x) :: (1, x) :: (2, x) :: ps) (4 * k + slot) =
      resultByte fill ((0, x) :: (1, x) :: (2, x) :: ps) (4 * k) := by
  have hmod : (4 * k + slot) % 4 = slot := by omega
  have hdiv : (4 * k + slot) / 4 = k := by omega
  have hmod0 : 4 * k % 4 = 0 := by omega
  have hdiv0 : 4 * k / 4 = k := by omega
  simp only [resultByte_cons, hmod, hdiv, hmod0, hdiv0]
  interval_cases slot <;> rfl

/-- An empty channel writes nothing, in either mode (44_compositor.md R245). -/
theorem byteAt_of_empty {c : Channel} (h : c.bytes = []) (fill : Byte) (k : Nat) : c.byteAt fill k = fill := by
  unfold Channel.byteAt
  rw [h]
  cases c.mode <;> rfl

/-- Settles O60: the run of O58, whose result's bytes are those of the call's channels. -/
theorem opaqueAlphaAndGrayBroadcast : Obligations.OpaqueAlphaAndGrayBroadcast := by
  intro s c rest hb _ hs hfit hslices hagree
  obtain ⟨k, t, hrun, hrest, -, hreceived⟩ := pseudoCommandReturnsItsResult s c rest hb hs hfit hslices hagree
  refine ⟨k, t, callResult c, hrun, hrest, hreceived, fun bytes hok => ?_⟩
  refine ⟨by simp [bytes_of_callResult hok], fun p hp => ?_⟩
  rw [getElem?_of_callResult hok (a := 4 * p) (by omega), getElem?_of_callResult hok (a := 4 * p + 1) (by omega),
    getElem?_of_callResult hok (a := 4 * p + 2) (by omega), getElem?_of_callResult hok (a := 4 * p + 3) (by omega)]
  have hmod : (4 * p + 3) % 4 = 3 := by omega
  refine ⟨?_, ?_, ?_⟩
  · rintro (⟨n, x, y, z, rfl⟩ | ⟨n, x, rfl⟩)
    · exact congrArg some (resultByte_of_absent (by simp [callChannels, hmod]) _)
    · exact congrArg some (resultByte_of_absent (by simp [callChannels, hmod]) _)
  · rintro (⟨n, x, rfl⟩ | ⟨n, x, y, rfl⟩)
    · exact ⟨congrArg some (resultByte_gray _ x _ p (by decide)), congrArg some (resultByte_gray _ x _ p (by decide))⟩
    · exact ⟨congrArg some (resultByte_gray _ x _ p (by decide)), congrArg some (resultByte_gray _ x _ p (by decide))⟩
  · rintro (⟨n, x, y, z, w, rfl, hw⟩ | ⟨n, x, w, rfl, hw⟩)
    · simp [callChannels, callFill, resultByte_cons, hmod, byteAt_of_empty hw]
    · simp [callChannels, callFill, resultByte_cons, hmod, byteAt_of_empty hw]

end Sys2Proof.Machine
end


/-! SUPPORT. The errors: where a micro-step raises one, what acceptance rejects, and what raise and finish record
(60_exceptions.md). -/
section
namespace Sys2Proof.Machine

variable {s t : State} {i : Instr} {w : Word}

/-! ### The errors of micro-steps -/

/-- A control byte raises no error (42_packbits.md R183). -/
theorem openPacket_status (i : Instr) (s : State) : (openPacket i s).status = s.status := by
  cases i <;> rfl

/-- Everything a micro-step that raises an error can do: it has no room for the byte it has at hand, or a packet lacks
its next byte (60_exceptions.md R264, R265). -/
theorem moves_raises (h : Moves s t) (hs : s.status.err = false) (ht : t.status.err = true) :
    (s.fsm ≠ .filling ∧ s.dstLen.toNat ≤ s.wr.toNat ∧ t.status = .failed .bufferTooSmall ∧ t.dst = s.dst ∧
        t.wr = s.wr) ∨
      ((s.fsm = .lit ∨ s.fsm = .repFetch) ∧ s.srcLen.toNat ≤ s.rd.toNat ∧ t = raiseError .truncatedInput s) := by
  have quiet (hq : t.status.err = s.status.err) : False := by simp [hq, hs] at ht
  cases h with
  | rawFull hf _ _ full | litFull hf _ _ full | repFull hf full =>
    exact .inl ⟨by simp [hf], Nat.not_lt.1 full, rfl, rfl, rfl⟩
  | litShort hf out => exact .inr ⟨.inl hf, Nat.not_lt.1 out, rfl⟩
  | fetchShort hf out => exact .inr ⟨.inr hf, Nat.not_lt.1 out, rfl⟩
  | control _ _ _ => exact (quiet (congrArg Status.err (openPacket_status _ s))).elim
  | _ => exact (quiet rfl).elim

/-- Settles O54: no error stands while BUSY = 1, so the micro-step raised it, and a missing byte is one at SRC_LEN. -/
theorem errorsAriseOnlyWhereTheirCauseIs : Obligations.ErrorsAriseOnlyWhereTheirCauseIs := by
  intro s t hinv hb hm ht
  obtain ⟨-, herr⟩ := hinv.oneFlag.1 hb
  obtain ⟨i, hr⟩ := hinv.running (hinv.busyIff.1 hb)
  obtain ⟨hf, full, hstatus, hdst, hwr⟩ | ⟨hf, out, rfl⟩ := moves_raises (microStep_moves hm) herr ht
  · exact ⟨hf, hdst, .inl ⟨congrArg Status.errcode hstatus, full, hwr⟩⟩
  · have hend : s.rd = s.srcLen := BitVec.eq_of_toNat_eq (Nat.le_antisymm hr.readCursor out)
    exact ⟨by obtain hf | hf := hf <;> simp [hf], rfl, .inr ⟨rfl, hend, hf, rfl, rfl⟩⟩

/-! ### The error of acceptance -/

/-- A word that decodes to a command selects a row (30_encoding.md R92). -/
theorem exists_selects_of_decodeCommand (h : decodeCommand w = .ok i) : ∃ r ∈ commandRows, r.selects w = true := by
  unfold decodeCommand at h
  split_ifs at h with hfill hraw hpb hdispatch <;> cases h
  · exact ⟨rowFill, by decide, hfill⟩
  · exact ⟨rowUnpackRaw, by decide, hraw⟩
  · exact ⟨rowUnpackPb, by decide, hpb⟩
  · exact ⟨rowDispatch, by decide, hdispatch⟩

/-- Settles O16: a word that starts its command selects a row and its ranges hold, so this one is rejected. -/
theorem cmdWriteRejectsIllegal : Obligations.CmdWriteRejectsIllegal := by
  intro s w rest hs hb hillegal
  have hwrite : writeRegister .cmd w { s with agenda := rest } = acceptCommand w { s with agenda := rest } := by
    simp [writeRegister, hb]
  rw [step_writeReg hs (r := .cmd) rfl, hwrite]
  obtain ⟨i, hd, hok, -⟩ | ⟨-, hreject⟩ := acceptCommand_cases w { s with agenda := rest }
  · exfalso
    obtain ⟨hi, rfl⟩ := decodeCommand_eq_ok.1 hd
    obtain ⟨hbuffer, hchannel⟩ := (rangesOk_iff hi).1 hok
    obtain hnone | hlong | ⟨hop, hlong⟩ := hillegal
    · obtain ⟨r, hr, hselects⟩ := exists_selects_of_decodeCommand hd
      simp [hnone r hr] at hselects
    · exact Nat.not_le.2 hlong hbuffer
    · exact Nat.not_le.2 hlong (hchannel.resolve_left (mt (opField_commandWord_eq_one hi).2 hop))
  · rw [hreject, rejectCommand_latchCommand (s := { s with agenda := rest }) hb]

/-! ### What the two ends record -/

/-- Settles O53: kind by kind, the code that `raise` records is the one its error has. -/
theorem raiseAndFinishRecordTheEnd : Obligations.RaiseAndFinishRecordTheEnd :=
  fun s => ⟨fun e => by cases e <;> rfl, rfl⟩

end Sys2Proof.Machine
end


/-! SUPPORT. The reset input, the end of a WAIT, and the host's duties while a command runs
(70_reset_and_hazards.md). -/
section
namespace Sys2Proof.Machine

variable {s t : State} {rest : List Turn}

/-! ### WAIT ends -/

/-- No micro-step raises the count of those left, for an idle engine stays as it is (40_command_interface.md R139). -/
theorem moves_stepsLeft_le (h : Moves s t) : t.stepsLeft ≤ s.stepsLeft := by
  by_cases hf : s.fsm = .idle
  · cases (moves_iff.1 h).symm.trans (microStep_of_idle hf)
    exact Nat.le_refl _
  · exact (moves_stepsLeft h hf).le

theorem moves_agenda (h : Moves s t) : t.agenda = s.agenda := by
  obtain ⟨-, -, -, -, -, -, -, hagenda, -⟩ := moves_surroundings h
  exact hagenda.symm

/-- The engine's turn in a running command answers a next state with fewer micro-steps left, and leaves the host's
operations as they are (42_packbits.md R198). -/
theorem engineTurn_progress (h : s.Fits) (hf : s.fsm ≠ .idle) :
    ∃ t, engineTurn s = .next t ∧ t.agenda = s.agenda ∧ t.stepsLeft < s.stepsLeft := by
  obtain ⟨u, hm⟩ := exists_moves h
  have hstart : u.agenda = s.agenda ∧ u.stepsLeft < s.stepsLeft := ⟨moves_agenda hm, moves_stepsLeft hm hf⟩
  obtain he | he := engineTurn_eq s
  · exact ⟨u, he.trans (moves_iff.1 hm), hstart⟩
  · obtain ⟨t, hrun⟩ := runEngine_of_fits packetEnded 129 (fits_of_moves h hm)
    refine ⟨t, by rw [he, moves_iff.1 hm]; exact hrun, ?_⟩
    exact runEngine_keeps (P := fun v => v.agenda = s.agenda ∧ v.stepsLeft < s.stepsLeft)
      (fun _ _ hv hmove => ⟨(moves_agenda hmove).trans hv.1, (moves_stepsLeft_le hmove).trans_lt hv.2⟩) hstart hrun

/-- A WAIT is passed in a state with BUSY = 0, by induction on the micro-steps left (70_reset_and_hazards.md R308). -/
theorem reaches_wait_passed (h : s.Inv) (hs : s.agenda = .wait :: rest) :
    ∃ t, Reaches s t ∧ t.status.busy = false ∧ t.agenda = rest := by
  induction hn : s.stepsLeft using Nat.strong_induction_on generalizing s with
  | _ n ih =>
    cases hb : s.status.busy with
    | false => exact ⟨_, .single (step_wait hs hb), hb, rfl⟩
    | true =>
      obtain ⟨u, hu, hagenda, hlt⟩ := engineTurn_progress (fits_of_inv h) (h.busyIff.1 hb)
      obtain ⟨t, hreach, ht⟩ := ih _ (hn ▸ hlt) (engineTurn_keeps_inv h hu) (hagenda.trans hs) rfl
      exact ⟨t, .head ((step_of_waiting (.inr ⟨hb, rest, hs⟩)).trans hu) hreach, ht⟩

/-- Settles O55: every turn that WAIT gives the engine lowers the count of the micro-steps left. -/
theorem waitEnds : Obligations.WaitEnds := by
  intro s rest h hs
  obtain ⟨t, hreach, ht⟩ := reaches_wait_passed h hs
  obtain ⟨n, hrun⟩ := exists_run_of_reaches hreach
  exact ⟨n, t, hrun, ht⟩

/-! ### The reset input -/

/-- Settles O8: the reset's field lemmas; no byte is listed in either RAM, and the next free values are read. -/
theorem resetAbortsAndClears : Obligations.ResetAbortsAndClears := fun s rest hs =>
  ⟨applyReset { s with agenda := rest }, step_of_turn hs, rfl, by rw [applyReset_status]; decide, rfl, rfl, rfl, rfl,
    rfl, rfl, rfl, rfl, rfl, fun _ => ⟨rfl, rfl⟩, Nat.succ_ne_self _, rfl, rfl, rfl⟩

/-! ### Host reads of a RAM while a command runs -/

/-- Byte k of the word read from a RAM is the one the RAM holds at a + k (20_memory.md R62). -/
theorem wordOfBytes_ramBytes_extract (s : State) (ram : Ram) (a : Nat) {w k : Nat} (hk : k < w) (hw : w ≤ 4) :
    (wordOfBytes (s.ramBytes ram a w)).extractLsb' (8 * k) 8 = s.ramByte ram (a + k) := by
  rw [wordOfBytes_extract _ (hk.trans_le hw), ramBytes_getElem?, if_pos hk]
  rfl

/-- A well-formed read of SRC inside it returns the bytes held, whether a command runs or not
(70_reset_and_hazards.md R304). -/
theorem step_readSrc {a w : Nat} (hs : s.agenda = .readRam .src a w :: rest) (hok : ramAccessOk a w = true)
    (hin : a + w ≤ s.config.srcCap.val) :
    step s = .next { s with
      agenda := rest
      received := s.received ++ [.ram .src a w (wordOfBytes (s.ramBytes .src a w))] } := by
  have hinside : State.ramInside { s with agenda := rest } .src a w = true := decide_eq_true hin
  rw [step_of_turn hs]
  simp [takeTurn, hostReadRam, hok, hinside, record]

/-- A well-formed read of DST inside it draws a free value while a command runs (70_reset_and_hazards.md R304,
log 4). -/
theorem step_readDst_of_busy {a w : Nat} (hs : s.agenda = .readRam .dst a w :: rest) (hb : s.status.busy = true)
    (hok : ramAccessOk a w = true) (hin : a + w ≤ s.config.dstCap.val) :
    step s = .next { s with
      agenda := rest
      draws := s.draws + 1
      received := s.received ++ [.ram .dst a w (lowBytes w (Config.freeRead s.draws))] } := by
  have hinside : State.ramInside { s with agenda := rest } .dst a w = true := decide_eq_true hin
  rw [step_of_turn hs]
  simp [takeTurn, hostReadRam, hok, hinside, hb, record]

/-- Settles O24: the word of the bytes SRC holds, and the low bytes of the value drawn for DST. -/
theorem busyRamReads : Obligations.BusyRamReads := by
  intro s a w rest hb hw ha
  have hok := ramAccessOk_of hw ha
  have hw4 : w ≤ 4 := by omega
  refine ⟨fun hs hin => ⟨_, step_readSrc hs hok hin, fun k hk => ?_, ?_⟩,
    fun hs hin => ⟨_, step_readDst_of_busy hs hb hok hin, fun k hk => lowBytes_extract _ hk hw4, lowBytes_lt w _⟩⟩
  · exact wordOfBytes_ramBytes_extract s .src a hk hw4
  · simpa using wordOfBytes_lt (s.ramBytes .src a w)

/-! ### The host's duties -/

/-- An access of another width than 1, 2 or 4, or not aligned to its width, is malformed (20_memory.md R62). -/
theorem ramAccessOk_eq_false {a w : Nat} (h : w ≠ 1 ∧ w ≠ 2 ∧ w ≠ 4 ∨ a % w ≠ 0) : ramAccessOk a w = false := by
  obtain ⟨h1, h2, h4⟩ | h := h
  · simp [ramAccessOk, h1, h2, h4]
  · simp [ramAccessOk, h]

/-- A register access of another width than 4, or not aligned, is malformed (20_memory.md R66). -/
theorem regAccessOk_eq_false {o w : Nat} (h : w ≠ 4 ∨ o % 4 ≠ 0) : regAccessOk o w = false := by
  obtain h | h := h
  · simp [regAccessOk, h]
  · simp [regAccessOk, h]

/-- A well-formed write inside a RAM is refused while a command runs (70_reset_and_hazards.md R302, R303). -/
theorem hostWriteRam_of_busy {ram : Ram} {a w : Nat} (v : Word) (hb : s.status.busy = true)
    (hok : ramAccessOk a w = true) (hin : a + w ≤ s.ramCap ram) :
    hostWriteRam ram a w v s = .refused (busyRefusal ram) := by
  simp [hostWriteRam, State.ramInside, hok, hin, hb]

/-- Settles O25: a write finds BUSY = 1, and a malformed access is refused before the state is looked at. -/
theorem hostDutiesAreRefused : Obligations.HostDutiesAreRefused := by
  refine ⟨fun s ram a w v rest hs hb hw ha hin => ?_, fun s ram a w v rest hs h => ?_, fun s o w v rest hs h => ?_⟩
  · rw [step_of_turn hs]
    exact hostWriteRam_of_busy (s := { s with agenda := rest }) v hb (ramAccessOk_of hw ha) hin
  · have hbad := ramAccessOk_eq_false h
    obtain hs | hs := hs
    · rw [step_of_turn hs]
      simp [takeTurn, hostWriteRam, hbad]
    · rw [step_of_turn hs]
      simp [takeTurn, hostReadRam, hbad]
  · have hbad := regAccessOk_eq_false h
    obtain hs | hs := hs
    · rw [step_of_turn hs]
      simp [takeTurn, hostWriteReg, hbad]
    · rw [step_of_turn hs]
      simp [takeTurn, hostReadReg, hbad]

end Sys2Proof.Machine
end
